-- ==== Sys2Proof/Word.lean ====
section
/-! DEFINITION. The widths of CRC16/FS (`00_scope.md` R8: every value is an unsigned bit vector). -/

namespace Sys2Proof

/-- `u8`: a byte of the frame, of CRC input, of an RD.FB index. -/
abbrev Byte := BitVec 8

/-- `u16`: the CRC accumulator (`10_state.md` R14). -/
abbrev Crc := BitVec 16

/-- `u32`: a sample register, the status register, an operand field, a response. -/
abbrev Word := BitVec 32

/-- `u40`: one command word (`30_encoding.md` R45). -/
abbrev CmdWord := BitVec 40

end Sys2Proof
end

