-- ==== Sys2Proof/Config.lean ====
section
/-! DEFINITION. The fixed parameters of `00_scope.md` R6, each one named constant (decision D21; log entry 13),
and the open parameters of R7, left free (log entry 3). -/

namespace Sys2Proof

/-- `Env.wres` (`00_scope.md` R7): the transport's answer to `write`; the detail is uninterpreted. -/
inductive WriteResult where
  | ok
  | ioError (detail : Byte)
  deriving DecidableEq, Repr, Inhabited

/-- One SEND's draw from the transport (`00_scope.md` R7, `43_transmit.md` R90): its answer to `is_open`, its answer to
`write` (consulted only when open), and what it takes of the 41 bytes if that write fails, which is unconstrained. -/
structure Answer where
  isOpen    : Bool
  wres      : WriteResult
  delivered : List Byte
  deriving DecidableEq, Repr, Inhabited

namespace Config

/-- Bytes in a frame. -/
def FRAME_LEN : Nat := 41
/-- Frame byte 0. -/
def HDR1 : Byte := 0x7A#8
/-- Frame byte 1. -/
def HDR2 : Byte := 0x7B#8
/-- Frame byte 40. -/
def FTR : Byte := 0x7D#8
/-- First byte of the checksum window. -/
def PAY_LO : Nat := 2
/-- One past the last byte of the checksum window. -/
def PAY_HI : Nat := 38
/-- `PAY_HI - PAY_LO`. -/
def PAY_LEN : Nat := PAY_HI - PAY_LO
/-- Accumulator start value. -/
def CRC_INIT : Crc := 0xFFFF#16
/-- The constant XORed in a bit step. -/
def CRC_POLY : Crc := 0xA001#16
/-- Offset of the checksum's low byte. -/
def CRC_OFF : Nat := 38
/-- Offset of linear_x. -/
def OFF_LX : Nat := 2
/-- Offset of linear_y. -/
def OFF_LY : Nat := 6
/-- Offset of angular_z. -/
def OFF_AZ : Nat := 10
/-- Offset of pos_x. -/
def OFF_PX : Nat := 14
/-- Offset of pos_y. -/
def OFF_PY : Nat := 22
/-- Offset of yaw. -/
def OFF_YAW : Nat := 30
/-- The binary64 value 0.0 of the pose fields (`42_serializer.md` R76). -/
def POSE_ZERO : BitVec 64 := 0#64
/-- What a frame-buffer byte nothing has written reads as: its reset value (`10_state.md` R15, R24). -/
def FB_RESET : Byte := 0x00#8

/-- FREE VALUE: the transport's answers to the n-th SEND for which `State.answers` lists none (`43_transmit.md` R90: "free
inputs of each SEND step, under no law"). No body: nothing can be proved of what it answers. DESIGN CHOICE, log entry 3. -/
opaque freeAnswer : Nat → Answer

end Config
end Sys2Proof
end

