-- ==== Sys2Proof/Syntax.lean ====
section
/-! DEFINITION. The eleven commands of `30_encoding.md` R50, their formats, and the assembler's lines (R54, R55). -/

namespace Sys2Proof

/-- The commands, one constructor per row of the opcode map. An operand's type is its field's width (R47, R48), so every
term is a command: `b` is any of 2^8 values, `w` any of 2^32. -/
inductive Instr where
  /-- CRC.INIT, `41_crc16.md` R65 -/
  | crcInit
  /-- CRC.BYTE b, `41_crc16.md` R66 -/
  | crcByte (b : Byte)
  /-- CRC.RD, `41_crc16.md` R67 -/
  | crcRd
  /-- LD.VX w, `42_serializer.md` R78 -/
  | ldVx (w : Word)
  /-- LD.VY w, `42_serializer.md` R79 -/
  | ldVy (w : Word)
  /-- LD.WZ w, `42_serializer.md` R80 -/
  | ldWz (w : Word)
  /-- ENC, `42_serializer.md` R81 -/
  | enc
  /-- RD.FB b, `42_serializer.md` R82 -/
  | rdFb (b : Byte)
  /-- SEND, `43_transmit.md` R96 -/
  | send
  /-- RD.ST, `44_system.md` R100 -/
  | rdSt
  /-- CLR.ST, `44_system.md` R101 -/
  | clrSt
  deriving DecidableEq, Repr

/-- The command names, operands left out. -/
inductive Opcode where
  | crcInit | crcByte | crcRd | ldVx | ldVy | ldWz | enc | rdFb | send | rdSt | clrSt
  deriving DecidableEq, Repr

/-- The three formats (`30_encoding.md` R46 to R48): no operand, byte operand, word operand. -/
inductive Format where
  | n | b | w
  deriving DecidableEq, Repr

/-- What may stand first on an assembler line (R54): a command, or one of the three pseudo-instructions (R55). -/
inductive Mnemonic where
  | command (o : Opcode)
  | encode
  | onsample
  | crc16
  deriving DecidableEq, Repr

/-- One assembler line: a mnemonic and unsigned literals of any size, not checked yet (`WellFormed.lean` checks them). -/
structure SourceLine where
  mnemonic : Mnemonic
  operands : List Nat
  deriving DecidableEq, Repr

end Sys2Proof
end

