-- ==== Sys2Proof/WellFormed.lean ====
section
/-! DEFINITION. The checks of an assembler line (`30_encoding.md` R54, R55): how many operands, and how large. A term of
`Instr` needs no check (its operands' types are the fields' widths); a raw command word is checked by `Decode.lean`. -/

namespace Sys2Proof

/-- The format of each command (`30_encoding.md` R46, R47, R48). -/
def Opcode.format : Opcode → Format
  | .crcInit | .crcRd | .enc | .send | .rdSt | .clrSt => .n
  | .crcByte | .rdFb => .b
  | .ldVx | .ldVy | .ldWz => .w

/-- How many operands a mnemonic takes; `none` where any number will do (`CRC16 b0, ..., bn-1` with n >= 0). -/
def Mnemonic.operandCount : Mnemonic → Option Nat
  | .command o => match o.format with
    | .n => some 0
    | .b => some 1
    | .w => some 1
  | .encode => some 3
  | .onsample => some 3
  | .crc16 => none

/-- One past the largest operand: format B in `0..255`, format W in `0..0xFFFFFFFF`. -/
def Mnemonic.operandLimit : Mnemonic → Nat
  | .command o => match o.format with
    | .n => 0
    | .b => 2 ^ 8
    | .w => 2 ^ 32
  | .encode => 2 ^ 32
  | .onsample => 2 ^ 32
  | .crc16 => 2 ^ 8

/-- The line has as many operands as its mnemonic takes. -/
def SourceLine.countOk (l : SourceLine) : Bool :=
  match l.mnemonic.operandCount with
  | some k => l.operands.length == k
  | none => true

/-- Every operand of the line fits its field. -/
def SourceLine.rangeOk (l : SourceLine) : Bool :=
  l.operands.all (· < l.mnemonic.operandLimit)

/-- A line the assembler accepts. -/
def SourceLine.wf (l : SourceLine) : Bool := l.countOk && l.rangeOk

end Sys2Proof
end

