-- ==== Sys2Proof/Decode.lean ====
section
/-! DEFINITION. The decoder, by the match and mask rows of `30_encoding.md` R50, total on all 2^40 words and rejecting by
name; the legality check of R51 in its own words; and the encoder of R45 to R48. -/

namespace Sys2Proof

/-- `op = cw[39:32]` (`30_encoding.md` R45). -/
def opField (cw : CmdWord) : Byte := cw.extractLsb' 32 8

/-- `imm = cw[31:0]` (`30_encoding.md` R45). -/
def immField (cw : CmdWord) : Word := cw.extractLsb' 0 32

/-- `b = imm[7:0]` (`30_encoding.md` R47). -/
def byteOperand (imm : Word) : Byte := imm.extractLsb' 0 8

/-- One row of the opcode map: a word selects it when `cw and mask = match`. -/
structure OpcodeRow where
  opcode  : Opcode
  pattern : CmdWord
  mask    : CmdWord
  deriving DecidableEq, Repr

/-- The complete opcode map (`30_encoding.md` R50). -/
def opcodeMap : List OpcodeRow := [
  ⟨.crcInit, 0x0100000000#40, 0xFFFFFFFFFF#40⟩,
  ⟨.crcByte, 0x0200000000#40, 0xFFFFFFFF00#40⟩,
  ⟨.crcRd,   0x0300000000#40, 0xFFFFFFFFFF#40⟩,
  ⟨.ldVx,    0x1000000000#40, 0xFF00000000#40⟩,
  ⟨.ldVy,    0x1100000000#40, 0xFF00000000#40⟩,
  ⟨.ldWz,    0x1200000000#40, 0xFF00000000#40⟩,
  ⟨.enc,     0x1800000000#40, 0xFFFFFFFFFF#40⟩,
  ⟨.rdFb,    0x1900000000#40, 0xFFFFFFFF00#40⟩,
  ⟨.send,    0x2000000000#40, 0xFFFFFFFFFF#40⟩,
  ⟨.rdSt,    0x3000000000#40, 0xFFFFFFFFFF#40⟩,
  ⟨.clrSt,   0x3100000000#40, 0xFFFFFFFFFF#40⟩]

/-- `cw and mask = match`. -/
def OpcodeRow.selects (r : OpcodeRow) (cw : CmdWord) : Bool := cw &&& r.mask == r.pattern

/-- The command of an opcode with operand field `imm`; operands are taken as they stand (`30_encoding.md` R49). -/
def Opcode.instr (o : Opcode) (imm : Word) : Instr :=
  match o with
  | .crcInit => .crcInit
  | .crcByte => .crcByte (byteOperand imm)
  | .crcRd   => .crcRd
  | .ldVx    => .ldVx imm
  | .ldVy    => .ldVy imm
  | .ldWz    => .ldWz imm
  | .enc     => .enc
  | .rdFb    => .rdFb (byteOperand imm)
  | .send    => .send
  | .rdSt    => .rdSt
  | .clrSt   => .clrSt

/-- Why a word is illegal (`30_encoding.md` R51). The names are the model's; the block keeps nothing of the word
(`60_exceptions.md` R107). DESIGN CHOICE, log entry 16. -/
inductive Illegal where
  /-- `op` is none of the eleven. -/
  | noSuchOpcode (op : Byte)
  /-- `op` is one of the eleven and an operand bit that must be zero is not. -/
  | mustBeZero (imm : Word)
  deriving DecidableEq, Repr

/-- The reason given for a word that selects no row. -/
def whyIllegal (cw : CmdWord) : Illegal :=
  if opcodeMap.any (fun r => opField r.pattern == opField cw) then .mustBeZero (immField cw)
  else .noSuchOpcode (opField cw)

/-- The decoder (`30_encoding.md` R50, R51): total, no length to find, no mode (R53). -/
def decode (cw : CmdWord) : Except Illegal Instr :=
  match opcodeMap.find? (·.selects cw) with
  | some r => .ok (r.opcode.instr (immField cw))
  | none => .error (whyIllegal cw)

/-! ### Encoder -/

/-- The `op` column of `30_encoding.md` R50. -/
def Opcode.byte : Opcode → Byte
  | .crcInit => 0x01#8
  | .crcByte => 0x02#8
  | .crcRd   => 0x03#8
  | .ldVx    => 0x10#8
  | .ldVy    => 0x11#8
  | .ldWz    => 0x12#8
  | .enc     => 0x18#8
  | .rdFb    => 0x19#8
  | .send    => 0x20#8
  | .rdSt    => 0x30#8
  | .clrSt   => 0x31#8

/-- The opcode of a command. -/
def Instr.opcode : Instr → Opcode
  | .crcInit => .crcInit
  | .crcByte _ => .crcByte
  | .crcRd => .crcRd
  | .ldVx _ => .ldVx
  | .ldVy _ => .ldVy
  | .ldWz _ => .ldWz
  | .enc => .enc
  | .rdFb _ => .rdFb
  | .send => .send
  | .rdSt => .rdSt
  | .clrSt => .clrSt

/-- The operand field of a command: zero in format N, `b` in bits 7:0 in format B, `w` in format W. -/
def Instr.imm : Instr → Word
  | .crcInit => 0#32
  | .crcByte b => b.setWidth 32
  | .crcRd => 0#32
  | .ldVx w => w
  | .ldVy w => w
  | .ldWz w => w
  | .enc => 0#32
  | .rdFb b => b.setWidth 32
  | .send => 0#32
  | .rdSt => 0#32
  | .clrSt => 0#32

/-- The command word `op ++ imm` (`30_encoding.md` R45). -/
def encode (i : Instr) : CmdWord := i.opcode.byte ++ i.imm

/-! ### Legality in the words of R51 -/

/-- All opcodes, in the table's order. -/
def Opcode.all : List Opcode :=
  [.crcInit, .crcByte, .crcRd, .ldVx, .ldVy, .ldWz, .enc, .rdFb, .send, .rdSt, .clrSt]

/-- The operand bits a format says must be zero are zero (`30_encoding.md` R46, R47, R48). -/
def operandOk (f : Format) (imm : Word) : Bool :=
  match f with
  | .n => imm == 0#32
  | .b => imm.extractLsb' 8 24 == 0#24
  | .w => true

/-- A legal word: its `op` is listed, a format N word has `imm` = 0, a format B word has `imm[31:8]` = 0
(`30_encoding.md` R46, R47, R51). -/
def legalWord (cw : CmdWord) : Bool :=
  match Opcode.all.find? (·.byte == opField cw) with
  | none => false
  | some o => operandOk o.format (immField cw)

/-! ### The host's view of a table word -/

/-- The command word numbered as the opcode table numbers it: bit 0 is bit 0 of the one 40-bit word, bits from `nbits` up
are zero. DEDUCED, log entry 15. -/
def tableWord (nbits w : Nat) : CmdWord := BitVec.ofNat 40 (w % 2 ^ nbits)

/-- The command the decoder reads from a table word of at most 40 bits. -/
def decodeTableWord (nbits w : Nat) : Option Instr :=
  if nbits ≤ 40 then (decode (tableWord nbits w)).toOption else none

end Sys2Proof
end

