-- ==== Sys2Proof/Machine/State.lean ====
section
/-! DEFINITION. The state: the block's registers, frame buffer and status (`10_state.md` R10), the records of its
interfaces (R20, R23), and the inputs still to come. -/

namespace Sys2Proof.Machine

/-- The frame buffer's contents: cells with strictly rising indices below 41, none equal to the reset byte; an unlisted
index reads as that byte (`10_state.md` R15). DESIGN CHOICE of form, log entry 12. -/
abbrev Memory := List Host.Cell

/-- An event of the transport trace (`43_transmit.md` R91). -/
inductive Event where
  /-- a `flush()` request -/
  | flush
  /-- a `write(bytes, 41)` request and the transport's answer -/
  | write (bytes : List Byte) (result : WriteResult)
  deriving DecidableEq, Repr

/-- What the host does next: one transaction on the command port, or the reset input, between commands or while a command
executes (`10_state.md` R20, `70_reset_and_hazards.md` R120, R121). DESIGN CHOICE, log entries 1, 8, 9. -/
inductive Input where
  | command (cw : CmdWord)
  | reset
  | resetDuring (cw : CmdWord)
  deriving DecidableEq, Repr

/-- The codes of `ST.OUTCOME` (`10_state.md` R16, `43_transmit.md` R94). -/
inductive SendOutcome where
  | none | sent | droppedClosed | droppedWriteFailed
  deriving DecidableEq, Repr

/-- The four conditions (`60_exceptions.md` R106). -/
inductive Condition where
  | illegalCommand
  | indexRange
  | transportClosed
  | writeFailed (detail : Byte)
  deriving DecidableEq, Repr

/-- The state. `vx` to `st` are the whole architectural state (`10_state.md` R10); `trace`, `rsps` and `delivered` record
what the block put on its ports; `inputs`, `answers` and `draws` are the environment's. -/
structure State where
  /-- `VX` (R11) -/
  vx : Word
  /-- `VY` (R11) -/
  vy : Word
  /-- `WZ` (R11) -/
  wz : Word
  /-- `CRC_ACC` (R14) -/
  crcAcc : Crc
  /-- `FB[0..40]` (R15) -/
  fb : Memory
  /-- `ST` (R16) -/
  st : Word
  /-- the transport trace, oldest event first (`43_transmit.md` R91) -/
  trace : List Event
  /-- the words delivered on the response port, oldest first (`30_encoding.md` R52; log entry 10) -/
  rsps : List Word
  /-- what the transport took of each write, oldest first (`Env.delivered`, `43_transmit.md` R93; log entry 5) -/
  delivered : List (List Byte)
  /-- what the host does next, first thing first (log entry 1) -/
  inputs : List Input
  /-- the transport's next answers, one per SEND (log entry 3) -/
  answers : List Answer
  /-- how many free answers have been drawn (log entry 3) -/
  draws : Nat
  deriving DecidableEq, Repr

/-- No reason to fault: the spec's step function "returns a next state for all 2^40 words" (`60_exceptions.md` R115), and
every condition is a field of `ST`. DEDUCED, safe, log entry 19. -/
inductive Fault where
  deriving DecidableEq, Repr

/-- Reasons to refuse. -/
inductive Refusal where
  /-- An instruction without a meaning; raised by no arm of `exec`, since every command has one. Safe. -/
  | notModelled (mnemonic : String)
  deriving DecidableEq, Repr

/-- Right after reset (`10_state.md` R24; `70_reset_and_hazards.md` R120). The spec gives every value down to `trace`
(its decision D8, log entry 11); the model's own fields start empty (log entries 1, 3, 5, 10). -/
def State.reset : State where
  vx := 0x00000000#32
  vy := 0x00000000#32
  wz := 0x00000000#32
  crcAcc := Config.CRC_INIT
  fb := []
  st := 0x00000000#32
  trace := []
  rsps := []
  delivered := []
  inputs := []
  answers := []
  draws := 0

end Sys2Proof.Machine
end

