-- ==== Sys2Proof/Machine/Flags.lean ====
section
/-! DEFINITION. The fields of the status register `ST` (`10_state.md` R16). -/

namespace Sys2Proof.Machine

/-- Replace the `n` bits of `st` from bit `lo` up by `v`, the others kept. -/
def putField {n : Nat} (lo : Nat) (v : BitVec n) (st : Word) : Word :=
  (st &&& ~~~((BitVec.allOnes n).setWidth 32 <<< lo)) ||| (v.setWidth 32 <<< lo)

/-- The code of an outcome (`10_state.md` R16). -/
def SendOutcome.code : SendOutcome → BitVec 2
  | .none => 0#2
  | .sent => 1#2
  | .droppedClosed => 2#2
  | .droppedWriteFailed => 3#2

/-- `ST[1:0]`. -/
def St.outcome (st : Word) : BitVec 2 := st.extractLsb' 0 2
/-- `ST[2]`. -/
def St.fbv (st : Word) : Bool := st.getLsbD 2
/-- `ST[3]`. -/
def St.ill (st : Word) : Bool := st.getLsbD 3
/-- `ST[4]`. -/
def St.idx (st : Word) : Bool := st.getLsbD 4
/-- `ST[15:8]`. -/
def St.detail (st : Word) : Byte := st.extractLsb' 8 8
/-- The reserved bits 7:5 and 31:16, all others cleared. -/
def St.reserved (st : Word) : Word := st &&& 0xFFFF00E0#32

/-- `ST.OUTCOME <- o`. -/
def St.setOutcome (o : SendOutcome) (st : Word) : Word := putField 0 o.code st
/-- `ST.FBV <- 1`. -/
def St.setFbv (st : Word) : Word := putField 2 1#1 st
/-- `ST.ILL <- v`. -/
def St.setIll (v : BitVec 1) (st : Word) : Word := putField 3 v st
/-- `ST.IDX <- v`. -/
def St.setIdx (v : BitVec 1) (st : Word) : Word := putField 4 v st
/-- `ST.DETAIL <- d`. -/
def St.setDetail (d : Byte) (st : Word) : Word := putField 8 d st

/-- `ST.OUTCOME <- o`, `ST.DETAIL <- d`: what every SEND records (`43_transmit.md` R96). -/
def St.record (o : SendOutcome) (d : Byte) (st : Word) : Word := St.setDetail d (St.setOutcome o st)

/-- What `raise` does to `ST` (`60_exceptions.md` R106, R110). -/
def Condition.mark (c : Condition) (st : Word) : Word :=
  match c with
  | .illegalCommand => St.setIll 1#1 st
  | .indexRange => St.setIdx 1#1 st
  | .transportClosed => St.record .droppedClosed 0x00#8 st
  | .writeFailed d => St.record .droppedWriteFailed d st

/-- CLR.ST's effect: OUTCOME, DETAIL, ILL and IDX to 0, FBV kept (`44_system.md` R101). -/
def St.clear (st : Word) : Word := St.setIdx 0#1 (St.setIll 0#1 (St.record .none 0x00#8 st))

end Sys2Proof.Machine
end

