-- ==== Sys2Proof/Machine/Operands.lean ====
section
/-! DEFINITION. Operand forms and response widths (`30_encoding.md` R49, R52). -/

namespace Sys2Proof.Machine

/-- `zext_16(b)`: CRC.BYTE's operand (`41_crc16.md` R61). -/
def crcOperand (b : Byte) : Crc := b.setWidth 16

/-- RD.FB's operand: an absolute, unsigned frame index (`42_serializer.md` R82, R86). -/
def frameIndex (b : Byte) : Nat := b.toNat

/-- `zext_32(CRC_ACC)` (`41_crc16.md` R67). -/
def crcResponse (a : Crc) : Word := a.setWidth 32

/-- `zext_32(FB[b])` (`42_serializer.md` R82). -/
def byteResponse (b : Byte) : Word := b.setWidth 32

end Sys2Proof.Machine
end

