-- ==== Sys2Proof/Machine/Ops.lean ====
section
/-! DEFINITION. The named operations over the frame buffer, the registers and the ports; recording a condition; taking
the transport's answer; reset. -/

namespace Sys2Proof.Machine

/-! ### The frame buffer -/

/-- `FB[a]`: the cell listed for index `a`, else the reset byte. -/
def Memory.read : Memory → Nat → Byte
  | [], _ => Config.FB_RESET
  | (k, v) :: t, a => if k = a then v else Memory.read t a

/-- List `b` at index `a`, in order, in place of what was listed there. -/
def Memory.insert : Memory → Nat → Byte → Memory
  | [], a, b => [(a, b)]
  | (k, v) :: t, a, b =>
    if a < k then (a, b) :: (k, v) :: t
    else if a = k then (a, b) :: t
    else (k, v) :: Memory.insert t a b

/-- `FB[a] <- b` (`00_scope.md` R8). Writing the reset byte unlists the index. An index above 40 names no byte
(`20_memory.md` R31) and no command writes one (`42_serializer.md` R86): there nothing is written. Log entry 12. -/
def Memory.write (m : Memory) (a : Nat) (b : Byte) : Memory :=
  if a < Config.FRAME_LEN then
    if b = Config.FB_RESET then m.filter (fun c => c.1 != a) else m.insert a b
  else m

/-- The canonical form from index `lo` on: indices strictly rising and below 41, no cell equal to the reset byte. -/
def Memory.wfFrom : Nat → Memory → Bool
  | _, [] => true
  | lo, (k, v) :: t => decide (lo ≤ k) && decide (k < Config.FRAME_LEN) && v != Config.FB_RESET && Memory.wfFrom (k + 1) t

/-- The canonical form. -/
def Memory.wf (m : Memory) : Bool := Memory.wfFrom 0 m

/-- The byte an index names, if it names one: `0 <= i <= 40` (`00_scope.md` R8, `20_memory.md` R31). -/
def Memory.byte? (m : Memory) (a : Nat) : Option Byte := if a < Config.FRAME_LEN then some (m.read a) else none

/-- `FB[0..40]` in index order (`20_memory.md` R39). -/
def Memory.bytes (m : Memory) : List Byte := (List.range Config.FRAME_LEN).map m.read

/-- `FB[a+k] <- f[k]` for every byte of `f`, first to last. -/
def Memory.writeBytes (m : Memory) (a : Nat) : List Byte → Memory
  | [] => m
  | b :: t => Memory.writeBytes (m.write a b) (a + 1) t

/-- `MemRead(a, n)` = `FB[a+n-1] ++ ... ++ FB[a]` (`00_scope.md` R8). -/
def Memory.memRead (m : Memory) (a : Nat) : (n : Nat) → BitVec (8 * n)
  | 0 => 0#0
  | n + 1 => (m.read (a + n) ++ Memory.memRead m a n).cast (by omega)

/-- The bytes of a multi-byte value, least significant first (`20_memory.md` R35; decision D10, log entry 14). -/
def leBytes (n : Nat) (v : BitVec (8 * n)) : List Byte := (List.range n).map (fun k => v.extractLsb' (8 * k) 8)

/-- `MemWrite(a, n, v)`: `FB[a+k] <- v[8k+7:8k]` for `k = 0 .. n-1` (`00_scope.md` R8). -/
def Memory.memWrite (m : Memory) (a n : Nat) (v : BitVec (8 * n)) : Memory := m.writeBytes a (leBytes n v)

/-! ### Registers -/

/-- `VX <- w`. -/
def State.setVx (s : State) (w : Word) : State := { s with vx := w }
/-- `VY <- w`. -/
def State.setVy (s : State) (w : Word) : State := { s with vy := w }
/-- `WZ <- w`. -/
def State.setWz (s : State) (w : Word) : State := { s with wz := w }
/-- `CRC_ACC <- c`. -/
def State.setCrcAcc (s : State) (c : Crc) : State := { s with crcAcc := c }
/-- `FB <- m`. -/
def State.setFb (s : State) (m : Memory) : State := { s with fb := m }
/-- `ST <- v`. -/
def State.setSt (s : State) (v : Word) : State := { s with st := v }

/-! ### Ports -/

/-- `rsp <- v` (`00_scope.md` R8). -/
def State.respond (s : State) (v : Word) : State := { s with rsps := s.rsps ++ [v] }
/-- `emit E` (`00_scope.md` R8, `43_transmit.md` R91). -/
def State.emit (s : State) (e : Event) : State := { s with trace := s.trace ++ [e] }
/-- Record what the transport took of a write (`43_transmit.md` R93). -/
def State.deliver (s : State) (bs : List Byte) : State := { s with delivered := s.delivered ++ [bs] }
/-- The host's remaining inputs. -/
def State.setInputs (s : State) (l : List Input) : State := { s with inputs := l }

/-! ### The transport's answer -/

/-- The answers this SEND gets (`43_transmit.md` R90): the next one listed, else a free one. -/
def State.nextAnswer (s : State) : Answer :=
  match s.answers with
  | a :: _ => a
  | [] => Config.freeAnswer s.draws

/-- The state once those answers are used up: one per SEND (`70_reset_and_hazards.md` R133; log entry 4). -/
def State.afterAnswer (s : State) : State :=
  match s.answers with
  | _ :: l => { s with answers := l }
  | [] => { s with draws := s.draws + 1 }

/-! ### Conditions and reset -/

/-- `raise X`: set the flag or code of X in `ST` and nothing more (`60_exceptions.md` R110). -/
def State.raise (s : State) (c : Condition) : State := s.setSt (c.mark s.st)

/-- What is recorded for a word that is no command: IllegalCommand (`30_encoding.md` R51, `60_exceptions.md` R107). -/
def takeIllegal (s : State) : State := s.raise .illegalCommand

/-- The reset input (`70_reset_and_hazards.md` R120): every piece of the block's state and the trace at the values of
`10_state.md` R24; the host's and the transport's side is not reset. DESIGN CHOICE for the records, log entry 8. -/
def applyReset (s : State) : State :=
  { State.reset with
    rsps := s.rsps, delivered := s.delivered, inputs := s.inputs, answers := s.answers, draws := s.draws }

/-- The reset input while `cw` executes (`70_reset_and_hazards.md` R120, R121): the command is abandoned. If it is a SEND
on an open transport, what was delivered is as of a failed write, unconstrained. Log entry 9. -/
def resetDuring (cw : CmdWord) (s : State) : State :=
  match decode cw with
  | .ok .send =>
    applyReset (if s.nextAnswer.isOpen then s.afterAnswer.deliver s.nextAnswer.delivered else s.afterAnswer)
  | _ => applyReset s

end Sys2Proof.Machine
end

