-- ==== Sys2Proof/Machine/Crc.lean ====
section
/-! DEFINITION. The CRC unit (`41_crc16.md`): the three pure functions, and CRC.INIT, CRC.BYTE, CRC.RD. -/

namespace Sys2Proof.Machine

/-- `crc_bit` (`41_crc16.md` R60): the test is made on `a` before the shift. -/
def crcBit (a : Crc) : Crc := if a.getLsbD 0 then (a >>> 1) ^^^ Config.CRC_POLY else a >>> 1

/-- `crc_byte` (`41_crc16.md` R61): the byte is consumed whole, then exactly eight bit steps. -/
def crcByte (a : Crc) (b : Byte) : Crc := crcBit^[8] (a ^^^ crcOperand b)

/-- `crc16` (`41_crc16.md` R62): the left fold from 0xFFFF; no final xor, no reversal, no special case (R71). -/
def crc16 (bs : List Byte) : Crc := bs.foldl crcByte Config.CRC_INIT

/-- CRC.INIT (`41_crc16.md` R65). -/
def execCrcInit (s : State) : Host.Outcome State Fault Refusal := .next (s.setCrcAcc Config.CRC_INIT)

/-- CRC.BYTE b (`41_crc16.md` R66). -/
def execCrcByte (b : Byte) (s : State) : Host.Outcome State Fault Refusal := .next (s.setCrcAcc (crcByte s.crcAcc b))

/-- CRC.RD (`41_crc16.md` R67). -/
def execCrcRd (s : State) : Host.Outcome State Fault Refusal := .next (s.respond (crcResponse s.crcAcc))

end Sys2Proof.Machine
end

