-- ==== Sys2Proof/Machine/Serializer.lean ====
section
/-! DEFINITION. The frame serializer (`42_serializer.md`): the pure function `frame`, the encode that ENC and SEND share,
and LD.VX, LD.VY, LD.WZ, ENC, RD.FB. -/

namespace Sys2Proof.Machine

/-- `payload(x, y, z)` = `f[2..37]` (`42_serializer.md` R77): the three patterns as they are (`10_state.md` R12), then the
three pose fields, always zero (R84). -/
def payload (x y z : Word) : List Byte :=
  leBytes 4 x ++ leBytes 4 y ++ leBytes 4 z ++
    (leBytes 8 Config.POSE_ZERO ++ leBytes 8 Config.POSE_ZERO ++ leBytes 8 Config.POSE_ZERO)

/-- `cks(x, y, z)` (`42_serializer.md` R77): over all 36 payload bytes, zeros included (`41_crc16.md` R71). -/
def cks (x y z : Word) : Crc := crc16 (payload x y z)

/-- `frame(x, y, z)` (`42_serializer.md` R77; layout `20_memory.md` R30). -/
def frame (x y z : Word) : List Byte :=
  [Config.HDR1, Config.HDR2] ++ payload x y z ++ leBytes 2 (cks x y z) ++ [Config.FTR]

/-- Encode: all 41 bytes of `FB`, `CRC_ACC` and `ST.FBV` from `VX`, `VY`, `WZ` (`42_serializer.md` R81, step 1 of
`43_transmit.md` R96). -/
def encodeSample (s : State) : State :=
  ((s.setFb (s.fb.writeBytes 0 (frame s.vx s.vy s.wz))).setCrcAcc (cks s.vx s.vy s.wz)).setSt (St.setFbv s.st)

/-- The same 41 bytes stored field by field at the named offsets, in the document's order (`42_serializer.md` R86). -/
def storeFields (m : Memory) (x y z : Word) : Memory :=
  let m1 := (m.memWrite 0 1 Config.HDR1).memWrite 1 1 Config.HDR2
  let m2 := ((m1.memWrite Config.OFF_LX 4 x).memWrite Config.OFF_LY 4 y).memWrite Config.OFF_AZ 4 z
  let m3 := ((m2.memWrite Config.OFF_PX 8 Config.POSE_ZERO).memWrite Config.OFF_PY 8 Config.POSE_ZERO).memWrite
    Config.OFF_YAW 8 Config.POSE_ZERO
  let c := crc16 ((m3.bytes.drop Config.PAY_LO).take Config.PAY_LEN)
  (m3.memWrite Config.CRC_OFF 2 c).memWrite (Config.FRAME_LEN - 1) 1 Config.FTR

/-- LD.VX w (`42_serializer.md` R78). -/
def execLdVx (w : Word) (s : State) : Host.Outcome State Fault Refusal := .next (s.setVx w)

/-- LD.VY w (`42_serializer.md` R79). -/
def execLdVy (w : Word) (s : State) : Host.Outcome State Fault Refusal := .next (s.setVy w)

/-- LD.WZ w (`42_serializer.md` R80). -/
def execLdWz (w : Word) (s : State) : Host.Outcome State Fault Refusal := .next (s.setWz w)

/-- ENC (`42_serializer.md` R81). -/
def execEnc (s : State) : Host.Outcome State Fault Refusal := .next (encodeSample s)

/-- RD.FB b (`42_serializer.md` R82): the byte, or IndexRange (`60_exceptions.md` R108) and no response. -/
def execRdFb (b : Byte) (s : State) : Host.Outcome State Fault Refusal :=
  .next (match s.fb.byte? (frameIndex b) with
    | some v => s.respond (byteResponse v)
    | none => s.raise .indexRange)

end Sys2Proof.Machine
end

