-- ==== Sys2Proof/Machine/System.lean ====
section
/-! DEFINITION. The system commands (`44_system.md`): RD.ST and CLR.ST. -/

namespace Sys2Proof.Machine

/-- RD.ST (`44_system.md` R100). -/
def execRdSt (s : State) : Host.Outcome State Fault Refusal := .next (s.respond s.st)

/-- CLR.ST (`44_system.md` R101). -/
def execClrSt (s : State) : Host.Outcome State Fault Refusal := .next (s.setSt (St.clear s.st))

end Sys2Proof.Machine
end

