-- ==== Sys2Proof/Machine/Transmit.lean ====
section
/-! DEFINITION. The output stage (`43_transmit.md`): SEND. -/

namespace Sys2Proof.Machine

/-- Steps 2 to 4 of SEND on an encoded state, the transport answering `a` (`43_transmit.md` R96): open check, flush, one
write of `FB[0..40]`, the outcome. On `Ok` the transport has taken all 41 bytes, on a failed write `Env.delivered` (R93). -/
def transmit (a : Answer) (s : State) : State :=
  if a.isOpen then
    let t := (s.emit .flush).emit (.write s.fb.bytes a.wres)
    match a.wres with
    | .ok => (t.deliver s.fb.bytes).setSt (St.record .sent 0x00#8 s.st)
    | .ioError d => (t.deliver a.delivered).raise (.writeFailed d)
  else s.raise .transportClosed

/-- SEND (`43_transmit.md` R96): encode first and unconditionally, never suppressed (R95), never retried (R97). -/
def execSend (s : State) : Host.Outcome State Fault Refusal :=
  .next (transmit s.nextAnswer (encodeSample s.afterAnswer))

end Sys2Proof.Machine
end

