-- ==== Sys2Proof/Machine/Dispatch.lean ====
section
/-! DEFINITION. One arm per command. -/

namespace Sys2Proof.Machine

def exec (i : Instr) (s : State) : Host.Outcome State Fault Refusal :=
  match i with
  | .crcInit => Sys2Proof.Machine.execCrcInit s
  | .crcByte b => Sys2Proof.Machine.execCrcByte b s
  | .crcRd => Sys2Proof.Machine.execCrcRd s
  | .ldVx w => Sys2Proof.Machine.execLdVx w s
  | .ldVy w => Sys2Proof.Machine.execLdVy w s
  | .ldWz w => Sys2Proof.Machine.execLdWz w s
  | .enc => Sys2Proof.Machine.execEnc s
  | .rdFb b => Sys2Proof.Machine.execRdFb b s
  | .send => Sys2Proof.Machine.execSend s
  | .rdSt => Sys2Proof.Machine.execRdSt s
  | .clrSt => Sys2Proof.Machine.execClrSt s

end Sys2Proof.Machine
end

