-- ==== Sys2Proof/Machine/Port.lean ====
section
/-! DEFINITION. The command port: what the block does with the host's next input (`10_state.md` R18, R20, R22). -/

namespace Sys2Proof.Machine

/-- What the next input asks for: run a command from a state, or go to a state at once. -/
inductive Accepted where
  | run (i : Instr) (s : State)
  | goto (s : State)

/-- Accept the host's next input. A word is decoded before anything else (`60_exceptions.md` R112); an illegal one is
recorded and the block goes on (`30_encoding.md` R51); with no input the block is idle and keeps every value
(`60_exceptions.md` R117; log entry 2). -/
def accept (s : State) : Accepted :=
  match s.inputs with
  | [] => .goto s
  | .command cw :: rest =>
    match decode cw with
    | .ok i => .run i (s.setInputs rest)
    | .error _ => .goto (takeIllegal (s.setInputs rest))
  | .reset :: rest => .goto (applyReset (s.setInputs rest))
  | .resetDuring cw :: rest => .goto (resetDuring cw (s.setInputs rest))

/-- The host issues one more command, to be accepted next. -/
def issue (cw : CmdWord) (s : State) : State := s.setInputs (.command cw :: s.inputs)

end Sys2Proof.Machine
end

