-- ==== Sys2Proof/Machine/Step.lean ====
section
/-! DEFINITION. One step: one accepted input, applied atomically (`20_memory.md` R40). -/

namespace Sys2Proof.Machine

/-- Accept the host's next input and carry it out. -/
def step (s : State) : Host.Outcome State Fault Refusal :=
  match accept s with
  | .run i t => exec i t
  | .goto t => .next t

/-- The host issues the table word as its next command (log entries 1, 15). -/
def State.withFetchWord (s : State) (nbits w : Nat) : State := issue (tableWord nbits w) s

end Sys2Proof.Machine
end

