-- ==== Sys2Proof/Machine/Assembler.lean ====
section
/-! DEFINITION. The assembler of `30_encoding.md` R54 and the pseudo-instructions of R55. What R54 leaves open of the text
(blanks, commas, letter case of hexadecimal digits) is log entry 17. -/

namespace Sys2Proof.Machine

/-- `ENCODE x, y, z` (`30_encoding.md` R55). -/
def encodeExpansion (x y z : Word) : List Instr := [.ldVx x, .ldVy y, .ldWz z, .enc]

/-- `ONSAMPLE x, y, z` (`30_encoding.md` R55). -/
def onsampleExpansion (x y z : Word) : List Instr := [.ldVx x, .ldVy y, .ldWz z, .send]

/-- `CRC16 b0, ..., bn-1` (`30_encoding.md` R55): a call of the document's CRC16 function (`41_crc16.md` R64). -/
def crc16Expansion (bs : List Byte) : List Instr := [.crcInit] ++ bs.map .crcByte ++ [.crcRd]

/-- The `k`-th operand as a 32-bit literal. -/
def literalAt (l : SourceLine) (k : Nat) : Word := BitVec.ofNat 32 (l.operands.getD k 0)

/-- The commands a line stands for. -/
def expandLine (l : SourceLine) : List Instr :=
  match l.mnemonic with
  | .command o => [o.instr (literalAt l 0)]
  | .encode => encodeExpansion (literalAt l 0) (literalAt l 1) (literalAt l 2)
  | .onsample => onsampleExpansion (literalAt l 0) (literalAt l 1) (literalAt l 2)
  | .crc16 => crc16Expansion (l.operands.map (BitVec.ofNat 8))

/-- Why the assembler rejects a line. -/
inductive AsmError where
  | unknownMnemonic
  | badLiteral
  | operandCount
  | operandRange
  deriving DecidableEq, Repr

/-- Check a line and expand it. -/
def assembleLine (l : SourceLine) : Except AsmError (List Instr) :=
  if l.countOk then
    if l.rangeOk then .ok (expandLine l) else .error .operandRange
  else .error .operandCount

/-- Mnemonics as R50 and R55 spell them. -/
def mnemonicText : Mnemonic → List Char
  | .command .crcInit => ['C', 'R', 'C', '.', 'I', 'N', 'I', 'T']
  | .command .crcByte => ['C', 'R', 'C', '.', 'B', 'Y', 'T', 'E']
  | .command .crcRd => ['C', 'R', 'C', '.', 'R', 'D']
  | .command .ldVx => ['L', 'D', '.', 'V', 'X']
  | .command .ldVy => ['L', 'D', '.', 'V', 'Y']
  | .command .ldWz => ['L', 'D', '.', 'W', 'Z']
  | .command .enc => ['E', 'N', 'C']
  | .command .rdFb => ['R', 'D', '.', 'F', 'B']
  | .command .send => ['S', 'E', 'N', 'D']
  | .command .rdSt => ['R', 'D', '.', 'S', 'T']
  | .command .clrSt => ['C', 'L', 'R', '.', 'S', 'T']
  | .encode => ['E', 'N', 'C', 'O', 'D', 'E']
  | .onsample => ['O', 'N', 'S', 'A', 'M', 'P', 'L', 'E']
  | .crc16 => ['C', 'R', 'C', '1', '6']

/-- Every mnemonic. -/
def allMnemonics : List Mnemonic := Opcode.all.map .command ++ [.encode, .onsample, .crc16]

/-- The value of a digit, in any base up to 16. -/
def digitValue (c : Char) : Option Nat :=
  if 48 ≤ c.toNat ∧ c.toNat ≤ 57 then some (c.toNat - 48)
  else if 65 ≤ c.toNat ∧ c.toNat ≤ 70 then some (c.toNat - 55)
  else if 97 ≤ c.toNat ∧ c.toNat ≤ 102 then some (c.toNat - 87)
  else none

/-- Read digits after a number already read. -/
def digitsFrom (base : Nat) : Nat → List Char → Option Nat
  | acc, [] => some acc
  | acc, c :: cs =>
    match digitValue c with
    | some d => if d < base then digitsFrom base (acc * base + d) cs else none
    | none => none

/-- An unsigned integer literal: `0x` hexadecimal, or decimal; at least one digit. -/
def literal : List Char → Option Nat
  | '0' :: 'x' :: c :: cs => digitsFrom 16 0 (c :: cs)
  | c :: cs => digitsFrom 10 0 (c :: cs)
  | [] => none

/-- Take blanks off both ends. -/
def trim (cs : List Char) : List Char :=
  ((cs.dropWhile Char.isWhitespace).reverse.dropWhile Char.isWhitespace).reverse

/-- Cut at every comma. -/
def cutCommas : List Char → List (List Char)
  | [] => [[]]
  | c :: cs =>
    match cutCommas cs with
    | [] => [[c]]
    | h :: t => if c = ',' then [] :: h :: t else (c :: h) :: t

/-- The operands after a mnemonic: none, or literals with commas between them. -/
def parseOperands (cs : List Char) : Option (List Nat) :=
  if trim cs = [] then some [] else (cutCommas cs).mapM (fun p => literal (trim p))

/-- One line of source, its comment (from `;`) dropped; `none` where nothing is left. -/
def parseLine (text : List Char) : Except AsmError (Option SourceLine) :=
  let cs := trim (text.takeWhile (· != ';'))
  if cs = [] then .ok none
  else
    match allMnemonics.find? (fun m => mnemonicText m = cs.takeWhile (fun c => !c.isWhitespace)) with
    | none => .error .unknownMnemonic
    | some m =>
      match parseOperands (cs.dropWhile (fun c => !c.isWhitespace)) with
      | none => .error .badLiteral
      | some ops => .ok (some ⟨m, ops⟩)

/-- The command words of one line of source. -/
def assembleText (text : String) : Except AsmError (List CmdWord) :=
  match parseLine text.toList with
  | .error e => .error e
  | .ok none => .ok []
  | .ok (some l) => (assembleLine l).map (·.map encode)

end Sys2Proof.Machine
end

