-- ==== Sys2Proof/Safety.lean ====
section
/-! DEFINITION. What a clean run is, and the invariant of the machine, in the terms the statements use. -/

namespace Sys2Proof.Machine

/-- `k` steps, each from the state the last one left (`70_reset_and_hazards.md` R133). -/
def run : Nat → State → Host.Outcome State Fault Refusal
  | 0, s => .next s
  | k + 1, s =>
    match step s with
    | .next t => run k t
    | .fault r => .fault r
    | .refused r => .refused r

/-- "The program ran clean": no illegal command and no out-of-range RD.FB has been seen (`60_exceptions.md` R115). -/
def Clean (s : State) : Prop := St.ill s.st = false ∧ St.idx s.st = false

/-- The 41 bytes are a frame of some sample. -/
def IsFrame (bs : List Byte) : Prop := ∃ x y z : Word, bs = frame x y z

/-- The shape of a transport trace: each write is a frame and is preceded by its own flush (`20_memory.md` R40 (c),
`43_transmit.md` R92). -/
def TraceOk : List Event → Prop
  | [] => True
  | .flush :: .write bs _ :: t => IsFrame bs ∧ TraceOk t
  | _ => False

/-- The last write of the trace was answered `r`. -/
def LastWrite (t : List Event) (r : WriteResult) : Prop := ∃ bs, t.getLast? = some (.write bs r)

/-- The invariant. -/
structure Inv (s : State) : Prop where
  /-- the frame buffer is in canonical form -/
  mem : s.fb.wf = true
  /-- reserved bits of `ST` are 0 (`10_state.md` R16) -/
  reserved : St.reserved s.st = 0#32
  /-- `DETAIL` is 0 unless `OUTCOME` is 3 (`10_state.md` R16) -/
  detail : St.outcome s.st ≠ 3#2 → St.detail s.st = 0x00#8
  /-- with `FBV` = 1 the buffer holds a frame (`42_serializer.md` R83) -/
  valid : St.fbv s.st = true → IsFrame s.fb.bytes
  /-- with `FBV` = 0 every byte reads 0x00 and no SEND is on record (`10_state.md` R15, R17, `43_transmit.md` R91) -/
  fresh : St.fbv s.st = false → s.fb = [] ∧ St.outcome s.st = 0#2 ∧ s.trace = []
  /-- the trace is flushes and writes in pairs -/
  trace : TraceOk s.trace
  /-- outcome SENT is the answer of the last write (`43_transmit.md` R94) -/
  sent : St.outcome s.st = 1#2 → LastWrite s.trace .ok
  /-- outcome DROPPED_WRITE_FAILED and `DETAIL` are the answer of the last write (`43_transmit.md` R94) -/
  failed : St.outcome s.st = 3#2 → LastWrite s.trace (.ioError (St.detail s.st))

end Sys2Proof.Machine
end

