-- ==== Sys2Proof/Certificates/Slice0/Obligations.lean ====
section
/-! DEFINITION. The statements for the provers. Each docstring names the rule it formalises; a frame is said by a record
update of the state before (every field not named is unchanged). -/

open Sys2Proof Sys2Proof.Machine

/-! ### Decoding, encoding, the assembler -/

/-- When the next input is a word that decodes to `i`, a step runs `i` on the state whose remaining inputs are the rest
(`10_state.md` R18, R20; the queue is the model's, log entry 1). -/
def Obligations.StepRunsDecodedCommand : Prop :=
  ∀ (s : State) (cw : CmdWord) (rest : List Input) (i : Instr),
    s.inputs = .command cw :: rest → decode cw = .ok i → step s = exec i { s with inputs := rest }

/-- `30_encoding.md` R51: which words select no row, and that such a word sets `ST.ILL` and does nothing else. -/
def Obligations.IllegalWordSetsIllOnly : Prop :=
  ∀ cw : CmdWord,
    ((∀ r ∈ opcodeMap, cw &&& r.mask ≠ r.pattern) ↔
      (cw.extractLsb' 32 8 ∉ [0x01#8, 0x02#8, 0x03#8, 0x10#8, 0x11#8, 0x12#8, 0x18#8, 0x19#8, 0x20#8, 0x30#8, 0x31#8] ∨
       (cw.extractLsb' 32 8 ∈ [0x01#8, 0x03#8, 0x18#8, 0x20#8, 0x30#8, 0x31#8] ∧ cw.extractLsb' 0 32 ≠ 0#32) ∨
       (cw.extractLsb' 32 8 ∈ [0x02#8, 0x19#8] ∧ cw.extractLsb' 8 24 ≠ 0#24))) ∧
    ((∃ i, decode cw = .ok i) ∨ ((∃ e, decode cw = .error e) ∧ ∀ r ∈ opcodeMap, cw &&& r.mask ≠ r.pattern)) ∧
    ∀ (s : State) (rest : List Input), s.inputs = .command cw :: rest →
      (∀ r ∈ opcodeMap, cw &&& r.mask ≠ r.pattern) →
      step s = .next { s with inputs := rest, st := s.st ||| 0x00000008#32 }

/-- `30_encoding.md` R50: each row of the opcode map selects its command; rows are disjoint; no row, no command. -/
def Obligations.OpcodeMapSelectsCommand : Prop :=
  ∀ cw : CmdWord,
    (cw &&& 0xFFFFFFFFFF#40 = 0x0100000000#40 → decode cw = .ok .crcInit) ∧
    (cw &&& 0xFFFFFFFF00#40 = 0x0200000000#40 → decode cw = .ok (.crcByte (cw.extractLsb' 0 8))) ∧
    (cw &&& 0xFFFFFFFFFF#40 = 0x0300000000#40 → decode cw = .ok .crcRd) ∧
    (cw &&& 0xFF00000000#40 = 0x1000000000#40 → decode cw = .ok (.ldVx (cw.extractLsb' 0 32))) ∧
    (cw &&& 0xFF00000000#40 = 0x1100000000#40 → decode cw = .ok (.ldVy (cw.extractLsb' 0 32))) ∧
    (cw &&& 0xFF00000000#40 = 0x1200000000#40 → decode cw = .ok (.ldWz (cw.extractLsb' 0 32))) ∧
    (cw &&& 0xFFFFFFFFFF#40 = 0x1800000000#40 → decode cw = .ok .enc) ∧
    (cw &&& 0xFFFFFFFF00#40 = 0x1900000000#40 → decode cw = .ok (.rdFb (cw.extractLsb' 0 8))) ∧
    (cw &&& 0xFFFFFFFFFF#40 = 0x2000000000#40 → decode cw = .ok .send) ∧
    (cw &&& 0xFFFFFFFFFF#40 = 0x3000000000#40 → decode cw = .ok .rdSt) ∧
    (cw &&& 0xFFFFFFFFFF#40 = 0x3100000000#40 → decode cw = .ok .clrSt) ∧
    (∀ r ∈ opcodeMap, ∀ r' ∈ opcodeMap, cw &&& r.mask = r.pattern → cw &&& r'.mask = r'.pattern → r = r') ∧
    ((∀ r ∈ opcodeMap, cw &&& r.mask ≠ r.pattern) → ∃ e, decode cw = .error e)

/-- Decoding the word of any command, with any operand, gives the command back (`30_encoding.md` R45 to R50). -/
def Obligations.DecodeOfEncode : Prop := ∀ i : Instr, decode (encode i) = .ok i

/-- Each legal word has one meaning: encoding what was decoded gives the same word (`30_encoding.md` R50, R51). -/
def Obligations.EncodeOfDecode : Prop := ∀ (cw : CmdWord) (i : Instr), decode cw = .ok i → encode i = cw

/-- The words written beside the commands of `30_encoding.md` R54 decode to those commands. -/
def Obligations.SampleWordsDecode : Prop :=
  decode 0x0100000000#40 = .ok .crcInit ∧ decode 0x0200000031#40 = .ok (.crcByte 0x31#8) ∧
  decode 0x0300000000#40 = .ok .crcRd ∧ decode 0x103FC00000#40 = .ok (.ldVx 0x3FC00000#32) ∧
  decode 0x11C0100000#40 = .ok (.ldVy 0xC0100000#32) ∧ decode 0x123DCCCCCD#40 = .ok (.ldWz 0x3DCCCCCD#32) ∧
  decode 0x1800000000#40 = .ok .enc ∧ decode 0x1900000026#40 = .ok (.rdFb 38#8) ∧
  decode 0x2000000000#40 = .ok .send ∧ decode 0x3000000000#40 = .ok .rdSt ∧ decode 0x3100000000#40 = .ok .clrSt

/-- `30_encoding.md` R54, R55: which lines the assembler accepts (format N no operand, B one below 256, W one below 2^32;
ENCODE and ONSAMPLE three below 2^32, CRC16 any number below 256), the command a command's line stands for, and the
expansions of the pseudo-instructions. How text becomes a line is the model's choice, log entry 17. -/
def Obligations.AssemblerAcceptsWellFormedLines : Prop :=
  (∀ l : SourceLine, (∃ is, assembleLine l = .ok is) ↔
    match l.mnemonic with
    | .command .crcInit | .command .crcRd | .command .enc | .command .send | .command .rdSt | .command .clrSt => l.operands = []
    | .command .crcByte | .command .rdFb => ∃ b, l.operands = [b] ∧ b < 256
    | .command .ldVx | .command .ldVy | .command .ldWz => ∃ w, l.operands = [w] ∧ w < 0x100000000
    | .encode | .onsample => ∃ x y z, l.operands = [x, y, z] ∧ x < 0x100000000 ∧ y < 0x100000000 ∧ z < 0x100000000
    | .crc16 => ∀ b ∈ l.operands, b < 256) ∧
  (assembleLine ⟨.command .crcInit, []⟩ = .ok [.crcInit] ∧ assembleLine ⟨.command .crcRd, []⟩ = .ok [.crcRd] ∧
    assembleLine ⟨.command .enc, []⟩ = .ok [.enc] ∧ assembleLine ⟨.command .send, []⟩ = .ok [.send] ∧
    assembleLine ⟨.command .rdSt, []⟩ = .ok [.rdSt] ∧ assembleLine ⟨.command .clrSt, []⟩ = .ok [.clrSt]) ∧
  (∀ b : Byte, assembleLine ⟨.command .crcByte, [b.toNat]⟩ = .ok [.crcByte b] ∧
    assembleLine ⟨.command .rdFb, [b.toNat]⟩ = .ok [.rdFb b]) ∧
  (∀ w : Word, assembleLine ⟨.command .ldVx, [w.toNat]⟩ = .ok [.ldVx w] ∧
    assembleLine ⟨.command .ldVy, [w.toNat]⟩ = .ok [.ldVy w] ∧ assembleLine ⟨.command .ldWz, [w.toNat]⟩ = .ok [.ldWz w]) ∧
  (∀ x y z : Word,
    assembleLine ⟨.encode, [x.toNat, y.toNat, z.toNat]⟩ = .ok [.ldVx x, .ldVy y, .ldWz z, .enc] ∧
    assembleLine ⟨.onsample, [x.toNat, y.toNat, z.toNat]⟩ = .ok [.ldVx x, .ldVy y, .ldWz z, .send]) ∧
  ∀ bs : List Byte, assembleLine ⟨.crc16, bs.map BitVec.toNat⟩ = .ok ([.crcInit] ++ bs.map .crcByte ++ [.crcRd])

/-! ### The CRC unit -/

/-- `41_crc16.md` R60: the bit step, and each of its sixteen bits: shifted right by one, bits 15, 13 and 0 of the shifted
value inverted when `a[0]` = 1. -/
def Obligations.CrcBitStep : Prop :=
  ∀ a : Crc,
    crcBit a = (if a.getLsbD 0 then (a >>> 1) ^^^ 0xA001#16 else a >>> 1) ∧
    ∀ k < 16, (crcBit a).getLsbD k = (a.getLsbD (k + 1) ^^ (a.getLsbD 0 && (k == 15 || k == 13 || k == 0)))

/-- `41_crc16.md` R60, the sentence the spec marks as derived: with `m` = sixteen copies of `a[0]`, the bit step is
`(a >> 1) xor (0xA001 and m)`. -/
def Obligations.CrcBitStepMaskForm : Prop :=
  ∀ a : Crc, crcBit a = (a >>> 1) ^^^ (0xA001#16 &&& BitVec.replicate 16 (a.extractLsb' 0 1))

/-- `41_crc16.md` R61: the byte is XORed into bits 7:0, bits 15:8 unchanged, then exactly eight bit steps follow. -/
def Obligations.CrcByteStep : Prop :=
  ∀ (a : Crc) (b : Byte),
    crcByte a b = crcBit (crcBit (crcBit (crcBit (crcBit (crcBit (crcBit (crcBit
      ((a.extractLsb' 8 8 ++ (a.extractLsb' 0 8 ^^^ b)).cast rfl))))))))

/-- `41_crc16.md` R62: the left fold of the byte step from 0xFFFF, with nothing done to the result. -/
def Obligations.CrcOfSequence : Prop :=
  crc16 [] = 0xFFFF#16 ∧ ∀ (bs : List Byte) (b : Byte), crc16 (bs ++ [b]) = crcByte (crc16 bs) b

/-- `41_crc16.md` R63 item 2: "123456789" gives 0x4B37. -/
def Obligations.CrcTestVector : Prop :=
  crc16 [0x31#8, 0x32#8, 0x33#8, 0x34#8, 0x35#8, 0x36#8, 0x37#8, 0x38#8, 0x39#8] = 0x4B37#16

/-- `41_crc16.md` R63 items 3 and 4: both steps are linear over xor, and only the xor of the byte with the accumulator's
low byte matters. -/
def Obligations.CrcStepsLinear : Prop :=
  (∀ a a' : Crc, crcBit (a ^^^ a') = crcBit a ^^^ crcBit a') ∧
  (∀ (a a' : Crc) (b b' : Byte), crcByte (a ^^^ a') (b ^^^ b') = crcByte a b ^^^ crcByte a' b') ∧
  ∀ (a : Crc) (b : Byte), crcByte a b = crcByte (a ^^^ b.setWidth 16) 0x00#8

/-- `41_crc16.md` R63 item 5: a byte list followed by its own CRC, low byte first, has CRC 0; so has every frame's
`f[2,40)`. -/
def Obligations.CrcResidueIsZero : Prop :=
  (∀ bs : List Byte, crc16 (bs ++ [(crc16 bs).extractLsb' 0 8, (crc16 bs).extractLsb' 8 8]) = 0x0000#16) ∧
  ∀ x y z : Word, crc16 (((frame x y z).drop 2).take 38) = 0x0000#16

/-- `41_crc16.md` R63 item 6: the bit step is a bijection, the byte step is one for each byte and is injective in the byte. -/
def Obligations.CrcStepsBijective : Prop :=
  Function.Bijective crcBit ∧ (∀ b : Byte, Function.Bijective (fun a => crcByte a b)) ∧
  ∀ a : Crc, Function.Injective (crcByte a)

/-- `41_crc16.md` R70: the table form, `T[i] = crc_bit^8(i)`, equals the definition. -/
def Obligations.CrcTableForm : Prop :=
  ∀ (a : Crc) (b : Byte),
    crcByte a b = (a >>> 8) ^^^ crcBit^[8] ((a ^^^ b.setWidth 16) &&& 0x00FF#16)

/-- `41_crc16.md` R65, with R51 for the words beside it. -/
def Obligations.CrcInitSetsAccumulator : Prop :=
  decode 0x0100000000#40 = .ok .crcInit ∧
  (∀ imm : Word, imm ≠ 0#32 → ∃ e, decode ((0x01#8 ++ imm).cast rfl) = .error e) ∧
  ∀ s : State, exec .crcInit s = .next { s with crcAcc := 0xFFFF#16 }

/-- `41_crc16.md` R66: one byte step from whatever the accumulator holds, 0xFFFF straight after reset. -/
def Obligations.CrcByteUpdatesAccumulator : Prop :=
  (∀ b : Byte, decode (0x0200000000#40 + b.setWidth 40) = .ok (.crcByte b)) ∧
  (∀ (b : Byte) (s : State), exec (.crcByte b) s = .next { s with crcAcc := crcByte s.crcAcc b }) ∧
  (∀ a : Crc, crcByte a 0x00#8 = crcBit^[8] a) ∧
  State.reset.crcAcc = 0xFFFF#16 ∧ crcByte 0xFFFF#16 0x31#8 = 0x947E#16

/-- `41_crc16.md` R67: the accumulator zero-extended, unchanged by the read; a frame's checksum after ENC or SEND. -/
def Obligations.CrcRdRespondsAccumulator : Prop :=
  decode 0x0300000000#40 = .ok .crcRd ∧
  (∀ s : State, exec .crcRd s = .next { s with rsps := s.rsps ++ [(0#16 ++ s.crcAcc).cast rfl] }) ∧
  (∀ s t : State, exec .enc s = .next t ∨ exec .send s = .next t →
    exec .crcRd t = .next { t with rsps := t.rsps ++ [(0#16 ++ cks s.vx s.vy s.wz).cast rfl] }) ∧
  exec .crcRd State.reset = .next { State.reset with rsps := [0x0000FFFF#32] }

/-- `10_state.md` R14, `70_reset_and_hazards.md` R124: what each command leaves in `CRC_ACC`; an illegal word leaves it
alone. -/
def Obligations.AccumulatorWriters : Prop :=
  (∀ (i : Instr) (s t : State), exec i s = .next t →
    t.crcAcc = match i with
      | .crcInit => 0xFFFF#16
      | .crcByte b => crcByte s.crcAcc b
      | .enc => cks s.vx s.vy s.wz
      | .send => cks s.vx s.vy s.wz
      | .crcRd => s.crcAcc
      | .ldVx _ => s.crcAcc
      | .ldVy _ => s.crcAcc
      | .ldWz _ => s.crcAcc
      | .rdFb _ => s.crcAcc
      | .rdSt => s.crcAcc
      | .clrSt => s.crcAcc) ∧
  ∀ (s t : State) (cw : CmdWord) (rest : List Input), s.inputs = .command cw :: rest → legalWord cw = false →
    step s = .next t → t.crcAcc = s.crcAcc

/-- `41_crc16.md` R64, `30_encoding.md` R55: the commands of `CRC16 b0, ..., bn-1`, whatever the accumulator held before,
respond with `zext_32(crc16([b0, .., bn-1]))` and change nothing but `CRC_ACC`. -/
def Obligations.CrcCallRespondsChecksum : Prop :=
  ∀ (bs : List Byte) (s : State) (rest : List Input),
    s.inputs = (crc16Expansion bs).map (fun i => Input.command (encode i)) ++ rest →
    run (bs.length + 2) s =
      .next { s with inputs := rest, crcAcc := crc16 bs, rsps := s.rsps ++ [(crc16 bs).setWidth 32] }

/-! ### The serializer -/

/-- `42_serializer.md` R78, R79, R80: each load writes its own register with the operand as it stands, and nothing else. -/
def Obligations.LoadsWriteTheirRegister : Prop :=
  ∀ (w : Word) (s : State),
    (decode (0x1000000000#40 + w.setWidth 40) = .ok (.ldVx w) ∧ exec (.ldVx w) s = .next { s with vx := w }) ∧
    (decode (0x1100000000#40 + w.setWidth 40) = .ok (.ldVy w) ∧ exec (.ldVy w) s = .next { s with vy := w }) ∧
    (decode (0x1200000000#40 + w.setWidth 40) = .ok (.ldWz w) ∧ exec (.ldWz w) s = .next { s with wz := w })

/-- `10_state.md` R11, R13: a sample register changes by its own load and by nothing else a command or an illegal word does. -/
def Obligations.SampleRegisterWriters : Prop :=
  (∀ (i : Instr) (s t : State), exec i s = .next t →
    ((∀ w, i ≠ .ldVx w) → t.vx = s.vx) ∧ ((∀ w, i ≠ .ldVy w) → t.vy = s.vy) ∧ ((∀ w, i ≠ .ldWz w) → t.wz = s.wz)) ∧
  ∀ (s t : State) (cw : CmdWord) (rest : List Input), s.inputs = .command cw :: rest → legalWord cw = false →
    step s = .next t → t.vx = s.vx ∧ t.vy = s.vy ∧ t.wz = s.wz

/-- `42_serializer.md` R77: the 41 bytes of `frame`, its payload and its checksum window. -/
def Obligations.FrameBytes : Prop :=
  ∀ x y z : Word,
    frame x y z =
      [0x7A#8, 0x7B#8,
       x.extractLsb' 0 8, x.extractLsb' 8 8, x.extractLsb' 16 8, x.extractLsb' 24 8,
       y.extractLsb' 0 8, y.extractLsb' 8 8, y.extractLsb' 16 8, y.extractLsb' 24 8,
       z.extractLsb' 0 8, z.extractLsb' 8 8, z.extractLsb' 16 8, z.extractLsb' 24 8] ++
      List.replicate 24 0x00#8 ++
      [(cks x y z).extractLsb' 0 8, (cks x y z).extractLsb' 8 8, 0x7D#8] ∧
    payload x y z = ((frame x y z).drop 2).take 36 ∧
    cks x y z = crc16 (((frame x y z).drop 2).take 36) ∧
    (frame x y z).length = 41

/-- `42_serializer.md` R77, the sentence the spec marks as derived: bytes 2 to 13 determine the sample, so `frame` is
injective. -/
def Obligations.FrameDeterminesSample : Prop :=
  ∀ x y z x' y' z' : Word, ((frame x y z).drop 2).take 12 = ((frame x' y' z').drop 2).take 12 → x = x' ∧ y = y' ∧ z = z'

/-- `42_serializer.md` R81: ENC rewrites all 41 bytes with the frame, leaves its checksum in `CRC_ACC`, sets `ST.FBV`, and
changes nothing else; it is idempotent (on a buffer in canonical form); the zero frame and the worked example. -/
def Obligations.EncBuildsFrame : Prop :=
  decode 0x1800000000#40 = .ok .enc ∧
  (∀ s : State, ∃ m : Memory,
    exec .enc s = .next { s with fb := m, crcAcc := cks s.vx s.vy s.wz, st := s.st ||| 0x00000004#32 } ∧
    m.bytes = frame s.vx s.vy s.wz ∧ (m.read 39 ++ m.read 38).cast rfl = cks s.vx s.vy s.wz ∧
    ∀ a, 41 ≤ a → m.read a = s.fb.read a) ∧
  (∀ s t : State, s.fb.wf = true → exec .enc s = .next t → exec .enc t = .next t) ∧
  cks 0#32 0#32 0#32 = 0x1040#16 ∧ cks 0x3FC00000#32 0xC0100000#32 0x3DCCCCCD#32 = 0xFF0D#16

/-- `42_serializer.md` R81 (a): what the buffer held before has no influence: from two canonical buffers ENC ends in one. -/
def Obligations.EncForgetsOldBuffer : Prop :=
  ∀ (s : State) (m : Memory), s.fb.wf = true → m.wf = true → exec .enc s = exec .enc { s with fb := m }

/-- `20_memory.md` R35: after ENC or SEND every multi-byte field of the buffer is little-endian, byte by byte. -/
def Obligations.FieldsAreLittleEndian : Prop :=
  ∀ (s t : State), exec .enc s = .next t ∨ exec .send s = .next t →
    (∀ k < 4, t.fb.read (2 + k) = s.vx.extractLsb' (8 * k) 8 ∧ t.fb.read (6 + k) = s.vy.extractLsb' (8 * k) 8 ∧
      t.fb.read (10 + k) = s.wz.extractLsb' (8 * k) 8) ∧
    (∀ k < 24, t.fb.read (14 + k) = 0x00#8) ∧
    t.fb.read 38 = (cks s.vx s.vy s.wz).extractLsb' 0 8 ∧ t.fb.read 39 = (cks s.vx s.vy s.wz).extractLsb' 8 8

/-- `00_scope.md` R8, `20_memory.md` R36: read back at their widths, the fields are the registers, 0.0 and the checksum. -/
def Obligations.FieldsReadBack : Prop :=
  ∀ (s t : State), exec .enc s = .next t ∨ exec .send s = .next t →
    t.fb.memRead 2 4 = s.vx ∧ t.fb.memRead 6 4 = s.vy ∧ t.fb.memRead 10 4 = s.wz ∧
    t.fb.memRead 14 8 = 0#64 ∧ t.fb.memRead 22 8 = 0#64 ∧ t.fb.memRead 30 8 = 0#64 ∧
    t.fb.memRead 38 2 = t.crcAcc

/-- `42_serializer.md` R86: the sequence of `MemWrite`s at the named offsets, checksum after payload, is the whole-frame
write. -/
def Obligations.FieldStoresMakeFrame : Prop :=
  ∀ (m : Memory) (x y z : Word), m.wf = true → storeFields m x y z = m.writeBytes 0 (frame x y z)

/-- `42_serializer.md` R82: the byte of a legal index zero-extended (0x00 while `ST.FBV` = 0, wherever the invariant
holds), or IndexRange with no response and no other effect. -/
def Obligations.RdFbReadsByteOrFlagsRange : Prop :=
  ∀ b : Byte, decode (0x1900000000#40 + b.setWidth 40) = .ok (.rdFb b) ∧
    (b.toNat ≤ 40 →
      (∀ s : State, exec (.rdFb b) s = .next { s with rsps := s.rsps ++ [(0#24 ++ s.fb.read b.toNat).cast rfl] }) ∧
      (∀ s : State, Inv s → St.fbv s.st = false → exec (.rdFb b) s = .next { s with rsps := s.rsps ++ [0x00000000#32] })) ∧
    (41 ≤ b.toNat → ∀ s : State, exec (.rdFb b) s = .next { s with st := s.st ||| 0x00000010#32 })

/-- `42_serializer.md` R83 items 1 to 4 and 6, of every state that meets the invariant with `ST.FBV` = 1. -/
def Obligations.ValidBufferHoldsFrame : Prop :=
  ∀ s : State, Inv s → St.fbv s.st = true →
    s.fb.bytes.length = 41 ∧ s.fb.read 0 = 0x7A#8 ∧ s.fb.read 1 = 0x7B#8 ∧ s.fb.read 40 = 0x7D#8 ∧
    (∀ a, 14 ≤ a → a < 38 → s.fb.read a = 0x00#8) ∧
    s.fb.memRead 38 2 = crc16 ((s.fb.bytes.drop 2).take 36) ∧ crc16 ((s.fb.bytes.drop 2).take 38) = 0x0000#16

/-- `20_memory.md` R32, `10_state.md` R15, R16: only ENC and SEND write the buffer or `ST.FBV`, and no command clears `FBV`. -/
def Obligations.BufferWriters : Prop :=
  ∀ (i : Instr) (s t : State), exec i s = .next t →
    (i ≠ .enc → i ≠ .send → t.fb = s.fb ∧ St.fbv t.st = St.fbv s.st) ∧
    (i = .enc ∨ i = .send → St.fbv t.st = true)

/-- Canonical buffers that read alike at all 41 indices are the same data (the form is the model's choice, log entry 12). -/
def Obligations.CanonicalBuffersEqual : Prop :=
  ∀ m m' : Memory, m.wf = true → m'.wf = true → m.bytes = m'.bytes → m = m'

/-- `30_encoding.md` R55: the four commands of `ENCODE x, y, z` leave the buffer holding `frame(x, y, z)` and touch nothing
but the sample registers, `FB`, `CRC_ACC` and `ST.FBV`. -/
def Obligations.EncodeExpansionBuildsFrame : Prop :=
  ∀ (x y z : Word) (s : State) (rest : List Input),
    s.inputs = (encodeExpansion x y z).map (fun i => Input.command (encode i)) ++ rest →
    ∃ m : Memory, m.bytes = frame x y z ∧
      run 4 s =
        .next { s with inputs := rest, vx := x, vy := y, wz := z, fb := m, crcAcc := cks x y z
                       st := s.st ||| 0x00000004#32 }

/-! ### The output stage -/

/-- `43_transmit.md` R96: SEND encodes first and unconditionally, then the open check, flush and one write decide the trace,
`OUTCOME` and `DETAIL`; nothing else changes. The model's own choices in it: which answer the SEND gets and that it uses one
up, also on a closed transport (log entries 3 and 4), and what is recorded as taken by the transport (log entry 5, R93). -/
def Obligations.SendByOutcome : Prop :=
  decode 0x2000000000#40 = .ok .send ∧
  ∀ s : State, ∃ m : Memory, m.bytes = frame s.vx s.vy s.wz ∧ (∀ a, 41 ≤ a → m.read a = s.fb.read a) ∧
    exec .send s = .next
      (let e : State := { s.afterAnswer with fb := m, crcAcc := cks s.vx s.vy s.wz }
       let kept : Word := (s.st &&& 0xFFFF00FC#32) ||| 0x00000004#32
       match s.nextAnswer with
       | ⟨false, _, _⟩ => { e with st := kept ||| 2#32 }
       | ⟨true, .ok, _⟩ =>
         { e with st := kept ||| 1#32
                  trace := s.trace ++ [.flush, .write (frame s.vx s.vy s.wz) .ok]
                  delivered := s.delivered ++ [frame s.vx s.vy s.wz] }
       | ⟨true, .ioError d, taken⟩ =>
         { e with st := kept ||| 3#32 ||| (d.setWidth 32 <<< 8)
                  trace := s.trace ++ [.flush, .write (frame s.vx s.vy s.wz) (.ioError d)]
                  delivered := s.delivered ++ [taken] })

/-- The model's form of `43_transmit.md` R90 and `70_reset_and_hazards.md` R133 (log entries 3 and 4): a SEND, also one that
finds the transport closed, uses up exactly one answer: the first one listed, which decides what it emits, or with none
listed the free one at the count of draws, which goes up by one. -/
def Obligations.SendTakesOneAnswer : Prop :=
  ∀ s : State,
    (∀ (a : Answer) (l : List Answer), s.answers = a :: l →
      ∃ t : State, exec .send s = .next t ∧ t.answers = l ∧ t.draws = s.draws ∧
        t.trace = s.trace ++ (if a.isOpen then [.flush, .write (frame s.vx s.vy s.wz) a.wres] else [])) ∧
    (s.answers = [] →
      ∃ t : State, exec .send s = .next t ∧ t.answers = [] ∧ t.draws = s.draws + 1 ∧
        t.trace = s.trace ++ (if (Config.freeAnswer s.draws).isOpen then
          [.flush, .write (frame s.vx s.vy s.wz) (Config.freeAnswer s.draws).wres] else []))

/-- `43_transmit.md` R94: the outcome of a SEND is exactly one of 1, 2, 3, decided by the two answers; never 0. -/
def Obligations.SendOutcomeCode : Prop :=
  ∀ s t : State, exec .send s = .next t →
    (St.outcome t.st = 1#2 ↔ s.nextAnswer.isOpen = true ∧ s.nextAnswer.wres = .ok) ∧
    (St.outcome t.st = 2#2 ↔ s.nextAnswer.isOpen = false) ∧
    (St.outcome t.st = 3#2 ↔ s.nextAnswer.isOpen = true ∧ ∃ d, s.nextAnswer.wres = .ioError d) ∧
    St.outcome t.st ≠ 0#2 ∧
    (∀ d, s.nextAnswer.isOpen = true → s.nextAnswer.wres = .ioError d → St.detail t.st = d) ∧
    (St.outcome t.st ≠ 3#2 → St.detail t.st = 0x00#8)

/-- `43_transmit.md` R95: whatever the sample, the buffer and the status, an open transport gets its write; only a closed
transport prevents one. -/
def Obligations.SendNeverSuppressed : Prop :=
  ∀ s : State, ∃ t : State, exec .send s = .next t ∧
    (s.nextAnswer.isOpen = true →
      t.trace = s.trace ++ [.flush, .write (frame s.vx s.vy s.wz) s.nextAnswer.wres]) ∧
    (s.nextAnswer.isOpen = false → t.trace = s.trace)

/-- `43_transmit.md` R95, the sentence the spec marks as derived from R96: two SENDs with unchanged registers, the transport
open at both, emit two identical writes. -/
def Obligations.TwoSendsWriteTwice : Prop :=
  ∀ s t u : State, exec .send s = .next t → exec .send t = .next u →
    s.nextAnswer.isOpen = true → t.nextAnswer.isOpen = true →
      u.trace = s.trace ++ [.flush, .write (frame s.vx s.vy s.wz) s.nextAnswer.wres,
                            .flush, .write (frame s.vx s.vy s.wz) t.nextAnswer.wres]

/-- `43_transmit.md` R97: what a SEND does to `FB`, `CRC_ACC`, the trace and its outcome depends on the sample registers and
its own answers alone. -/
def Obligations.SendIndependentOfHistory : Prop :=
  ∀ s s' t t' : State, s.fb.wf = true → s'.fb.wf = true →
    s.vx = s'.vx → s.vy = s'.vy → s.wz = s'.wz → s.nextAnswer = s'.nextAnswer →
    exec .send s = .next t → exec .send s' = .next t' →
    t.fb = t'.fb ∧ t.crcAcc = t'.crcAcc ∧ St.outcome t.st = St.outcome t'.st ∧ St.detail t.st = St.detail t'.st ∧
    ∃ es : List Event, t.trace = s.trace ++ es ∧ t'.trace = s'.trace ++ es

/-- `43_transmit.md` R91: the trace is empty at reset and appended to only by SEND: nothing, or a flush and then a write of
`FB[0..40]` in index order with the transport's answer. -/
def Obligations.TraceWriters : Prop :=
  State.reset.trace = [] ∧
  (∀ (i : Instr) (s t : State), exec i s = .next t →
    (i ≠ .send → t.trace = s.trace) ∧
    (i = .send → t.trace = s.trace ∨
      t.trace = s.trace ++ [.flush, .write ((List.range 41).map t.fb.read) s.nextAnswer.wres])) ∧
  ∀ (s t : State) (cw : CmdWord) (rest : List Input), s.inputs = .command cw :: rest → legalWord cw = false →
    step s = .next t → t.trace = s.trace

/-- `30_encoding.md` R55: the four commands of `ONSAMPLE x, y, z` on an open transport flush and write exactly
`frame(x, y, z)`; on a closed one they encode and emit nothing. The transport's answer `a` is the first one listed or, with
none listed, the free one at the count of draws (the model's form, log entry 3), and is used up either way (log entry 4). -/
def Obligations.OnsampleExpansionSendsFrame : Prop :=
  ∀ (x y z : Word) (a : Answer) (s : State) (rest : List Input),
    s.inputs = (onsampleExpansion x y z).map (fun i => Input.command (encode i)) ++ rest →
    (∃ l, s.answers = a :: l) ∨ (s.answers = [] ∧ a = Config.freeAnswer s.draws) →
    ∃ t : State, run 4 s = .next t ∧
      t.inputs = rest ∧ t.answers = s.answers.tail ∧ t.draws = (if s.answers = [] then s.draws + 1 else s.draws) ∧
      t.vx = x ∧ t.vy = y ∧ t.wz = z ∧ t.fb.bytes = frame x y z ∧ t.crcAcc = cks x y z ∧ t.rsps = s.rsps ∧
      t.trace = s.trace ++ (if a.isOpen then [.flush, .write (frame x y z) a.wres] else []) ∧
      St.outcome t.st = (if a.isOpen then (match a.wres with | .ok => 1#2 | .ioError _ => 3#2) else 2#2)

/-! ### The status register and the conditions -/

/-- `44_system.md` R100: RD.ST responds with `ST` and changes nothing; reserved bits read 0 wherever the invariant holds. -/
def Obligations.RdStRespondsStatus : Prop :=
  decode 0x3000000000#40 = .ok .rdSt ∧
  (∀ s : State, exec .rdSt s = .next { s with rsps := s.rsps ++ [s.st] }) ∧
  (∀ s : State, Inv s → s.st &&& 0xFFFF00E0#32 = 0#32) ∧
  exec .rdSt State.reset = .next { State.reset with rsps := [0x00000000#32] }

/-- `44_system.md` R101: CLR.ST clears `OUTCOME`, `ILL`, `IDX` and `DETAIL`, keeps `FBV`, and touches nothing else. -/
def Obligations.ClrStClearsAllButFbv : Prop :=
  decode 0x3100000000#40 = .ok .clrSt ∧
  ∀ s : State, exec .clrSt s = .next { s with st := s.st &&& 0xFFFF00E4#32 }

/-- `60_exceptions.md` R107, R108, R113: a sticky flag once set stays set over every step but CLR.ST and the reset input. -/
def Obligations.StickyFlagsStay : Prop :=
  ∀ (s t : State) (cw : CmdWord) (rest : List Input), s.inputs = .command cw :: rest → cw ≠ 0x3100000000#40 →
    step s = .next t →
    (St.ill s.st = true → St.ill t.st = true) ∧ (St.idx s.st = true → St.idx t.st = true)

/-- `60_exceptions.md` R112: from a status with nothing on record, one step puts at most one condition on record. -/
def Obligations.OneConditionPerCommand : Prop :=
  ∀ s t : State, s.st &&& 0x0000FF1B#32 = 0#32 → step s = .next t →
    (St.ill t.st = true → St.idx t.st = false ∧ St.outcome t.st = 0#2) ∧
    (St.idx t.st = true → St.ill t.st = false ∧ St.outcome t.st = 0#2) ∧
    (St.outcome t.st ≠ 0#2 → St.ill t.st = false ∧ St.idx t.st = false)

/-- `10_state.md` R17: no flag changes what a command computes: replace `ST` before a command and nothing after it differs
but `ST` itself, and the word RD.ST responds with. -/
def Obligations.StatusIsOnlyReport : Prop :=
  ∀ (i : Instr) (s t : State) (v : Word), exec i s = .next t →
    ∃ v' : Word,
      exec i { s with st := v } =
        .next { t with st := v', rsps := match i with | .rdSt => s.rsps ++ [v] | _ => t.rsps }

/-! ### Ports and the whole machine -/

/-- `30_encoding.md` R52: the responses of each command, none for the others and none for an illegal word. -/
def Obligations.ResponsesOfCommands : Prop :=
  (∀ (i : Instr) (s t : State), exec i s = .next t →
    t.rsps = s.rsps ++ match i with
      | .crcRd => [(0#16 ++ s.crcAcc).cast rfl]
      | .rdFb b => if b.toNat ≤ 40 then [(0#24 ++ s.fb.read b.toNat).cast rfl] else []
      | .rdSt => [s.st]
      | _ => []) ∧
  ∀ (s t : State) (cw : CmdWord) (rest : List Input), s.inputs = .command cw :: rest → legalWord cw = false →
    step s = .next t → t.rsps = s.rsps

/-- `20_memory.md` R38: CRC.RD, RD.ST and a legal RD.FB have no side effect and repeat the same word. -/
def Obligations.ReadsRepeat : Prop :=
  ∀ (i : Instr) (s t : State), i = .crcRd ∨ i = .rdSt ∨ (∃ b : Byte, b.toNat ≤ 40 ∧ i = .rdFb b) → exec i s = .next t →
    ∃ v : Word, t = { s with rsps := s.rsps ++ [v] } ∧ exec i t = .next { s with rsps := s.rsps ++ [v, v] }

/-- `60_exceptions.md` R115, `30_encoding.md` R51: the step function is total: no state, no word and no answer stops it. -/
def Obligations.StepIsTotal : Prop := ∀ s : State, ∃ t : State, step s = .next t

/-- `10_state.md` R18, `20_memory.md` R40: a step takes exactly the next input, whatever it is (the queue is the model's, log
entry 1). -/
def Obligations.StepTakesOneInput : Prop :=
  ∀ (s t : State) (x : Input) (rest : List Input), s.inputs = x :: rest → step s = .next t → t.inputs = rest

/-- `60_exceptions.md` R117 in the model's form (log entry 2): with no input the block is idle and every register keeps its
value. -/
def Obligations.IdleBlockKeepsState : Prop := ∀ s : State, s.inputs = [] → step s = .next s

/-- `10_state.md` R24: the reset values. -/
def Obligations.ResetValues : Prop :=
  State.reset.vx = 0x00000000#32 ∧ State.reset.vy = 0x00000000#32 ∧ State.reset.wz = 0x00000000#32 ∧
  State.reset.crcAcc = 0xFFFF#16 ∧ (∀ a, a ≤ 40 → State.reset.fb.read a = 0x00#8) ∧ State.reset.st = 0x00000000#32 ∧
  St.outcome State.reset.st = SendOutcome.none.code ∧ St.fbv State.reset.st = false ∧ St.ill State.reset.st = false ∧
  St.idx State.reset.st = false ∧ St.detail State.reset.st = 0x00#8 ∧ State.reset.trace = []

/-- `70_reset_and_hazards.md` R120: the reset input puts every piece of the block's state at its reset value. That it
empties the trace and keeps the records of responses and deliveries is the model's choice (log entry 8). -/
def Obligations.ResetInputRestoresResetState : Prop :=
  ∀ (s : State) (rest : List Input), s.inputs = .reset :: rest →
    step s = .next { s with inputs := rest, vx := 0#32, vy := 0#32, wz := 0#32, crcAcc := 0xFFFF#16, fb := [], st := 0#32,
                            trace := [] }

/-- `70_reset_and_hazards.md` R120, R121 in the model's form (log entries 8, 9): reset abandons the command in progress; only
a SEND on an open transport leaves something behind, an unconstrained delivery. -/
def Obligations.ResetAbandonsCommand : Prop :=
  ∀ (s : State) (cw : CmdWord) (rest : List Input), s.inputs = .resetDuring cw :: rest →
    ∃ t : State, step s = .next t ∧ t.inputs = rest ∧ t.vx = 0#32 ∧ t.vy = 0#32 ∧ t.wz = 0#32 ∧ t.crcAcc = 0xFFFF#16 ∧
      t.fb = [] ∧ t.st = 0#32 ∧ t.trace = [] ∧ t.rsps = s.rsps ∧
      (cw ≠ 0x2000000000#40 → t.delivered = s.delivered ∧ t.answers = s.answers ∧ t.draws = s.draws) ∧
      (cw = 0x2000000000#40 →
        t.answers = s.afterAnswer.answers ∧ t.draws = s.afterAnswer.draws ∧
        t.delivered = s.delivered ++ (if s.nextAnswer.isOpen then [s.nextAnswer.delivered] else []))

/-- The invariant of `Safety.lean` holds at reset. -/
def Obligations.InvAtReset : Prop := Inv State.reset

/-- Every step, of any input from any state that meets it, keeps the invariant: the buffer canonical and, with `FBV` = 1, a
frame (`42_serializer.md` R83); the status fields legal (`10_state.md` R16); the trace flush-and-write pairs of frames
(`20_memory.md` R40, R92); the recorded outcome that of the last write (R94). -/
def Obligations.StepKeepsInv : Prop := ∀ s t : State, Inv s → step s = .next t → Inv t

/-- `60_exceptions.md` R115: clean runs: a step from a clean state ends clean exactly when its input is not an illegal word
and not an RD.FB above 40. -/
def Obligations.CleanStepsAreLegal : Prop :=
  ∀ (s t : State) (cw : CmdWord) (rest : List Input), s.inputs = .command cw :: rest → Clean s → step s = .next t →
    (Clean t ↔ ∃ i, decode cw = .ok i ∧ ∀ b, i = .rdFb b → b.toNat ≤ 40)
end

