-- ==== Sys2Proof/Laws/Assembler.lean ====
section
/-! SUPPORT. What the assembler's checks say, and what assembling a line can answer. -/

namespace Sys2Proof.Machine

theorem countOk_iff (l : SourceLine) : l.countOk = true ↔ ∀ k, l.mnemonic.operandCount = some k → l.operands.length = k := by
  unfold SourceLine.countOk
  split <;> simp_all

theorem rangeOk_iff (l : SourceLine) : l.rangeOk = true ↔ ∀ x ∈ l.operands, x < l.mnemonic.operandLimit := by
  simp [SourceLine.rangeOk]

theorem wf_iff (l : SourceLine) : l.wf = true ↔ (∀ k, l.mnemonic.operandCount = some k → l.operands.length = k) ∧
    ∀ x ∈ l.operands, x < l.mnemonic.operandLimit := by
  rw [SourceLine.wf, Bool.and_eq_true, countOk_iff, rangeOk_iff]

theorem assembleLine_ok_iff (l : SourceLine) (is : List Instr) :
    assembleLine l = .ok is ↔ l.wf = true ∧ is = expandLine l := by
  unfold assembleLine SourceLine.wf
  cases l.countOk <;> cases l.rangeOk <;> simp [eq_comm]

end Sys2Proof.Machine
end

