-- ==== Sys2Proof/Laws/PerInstr.lean ====
section
/-! SUPPORT. Statements about every command as syntax, one lemma per constructor. -/

namespace Sys2Proof.Laws.EncodesLegal

/-- The word a command is encoded as carries its opcode's byte and its operand field, and is legal by R51. -/
def Statement (i : Instr) : Prop :=
  opField (encode i) = i.opcode.byte ∧ immField (encode i) = i.imm ∧ legalWord (encode i) = true

/-- The bits of a command word: `imm` in bits 31:0, `op` above. -/
theorem getLsbD_append (o : Byte) (w : Word) (k : Nat) :
    (o ++ w : CmdWord).getLsbD k = if k < 32 then w.getLsbD k else o.getLsbD (k - 32) := BitVec.getLsbD_append

theorem opField_append (o : Byte) (w : Word) : opField (o ++ w : CmdWord) = o := by
  apply BitVec.eq_of_getLsbD_eq
  intro i hi
  simp only [opField, BitVec.getLsbD_extractLsb', getLsbD_append, hi, decide_true, Bool.true_and]
  rw [if_neg (by omega)]; congr 1; omega

theorem immField_append (o : Byte) (w : Word) : immField (o ++ w : CmdWord) = w := by
  apply BitVec.eq_of_getLsbD_eq
  intro i hi
  simp only [immField, BitVec.getLsbD_extractLsb', getLsbD_append, Nat.zero_add, hi, decide_true, Bool.true_and, if_true]

/-- A byte operand's field has zero in bits 31:8. -/
theorem highBits_byte (b : Byte) : (b.setWidth 32).extractLsb' 8 24 = 0#24 := by
  apply BitVec.eq_of_getLsbD_eq
  intro i hi
  simp

theorem of_opcode (i : Instr) (h : operandOk i.opcode.format i.imm = true) : Statement i := by
  have h1 : opField (encode i) = i.opcode.byte := opField_append _ _
  have h2 : immField (encode i) = i.imm := immField_append _ _
  refine ⟨h1, h2, ?_⟩
  have h3 : Opcode.all.find? (·.byte == i.opcode.byte) = some i.opcode := by cases i.opcode <;> rfl
  unfold legalWord
  rw [h1, h2, h3]
  exact h

theorem crcInit : Statement .crcInit := of_opcode _ rfl
theorem crcByte (b : Byte) : Statement (.crcByte b) := of_opcode _ (beq_iff_eq.mpr (highBits_byte b))
theorem crcRd : Statement .crcRd := of_opcode _ rfl
theorem ldVx (w : Word) : Statement (.ldVx w) := of_opcode _ rfl
theorem ldVy (w : Word) : Statement (.ldVy w) := of_opcode _ rfl
theorem ldWz (w : Word) : Statement (.ldWz w) := of_opcode _ rfl
theorem enc : Statement .enc := of_opcode _ rfl
theorem rdFb (b : Byte) : Statement (.rdFb b) := of_opcode _ (beq_iff_eq.mpr (highBits_byte b))
theorem send : Statement .send := of_opcode _ rfl
theorem rdSt : Statement .rdSt := of_opcode _ rfl
theorem clrSt : Statement .clrSt := of_opcode _ rfl

end Sys2Proof.Laws.EncodesLegal
end

