-- ==== Sys2Proof/Laws/Decode.lean ====
section
/-! SUPPORT. Command words taken apart, and the spec lemmas of a row's test and of the decoder. -/

namespace Sys2Proof.Laws

open EncodesLegal (opField_append immField_append getLsbD_append)

theorem cmdWord_split (cw : CmdWord) : cw = (opField cw ++ immField cw : CmdWord) := by
  apply BitVec.eq_of_getLsbD_eq
  intro i hi
  rw [getLsbD_append]
  split
  · rename_i h; simp [immField, h]
  · rename_i h; simp [opField, show i - 32 < 8 by omega, show 32 + (i - 32) = i by omega]

theorem append_inj (o o' : Byte) (w w' : Word) : (o ++ w : CmdWord) = (o' ++ w' : CmdWord) ↔ o = o' ∧ w = w' := by
  refine ⟨fun h => ⟨?_, ?_⟩, fun h => by rw [h.1, h.2]⟩
  · simpa only [opField_append] using congrArg opField h
  · simpa only [immField_append] using congrArg immField h

theorem and_append (o o' : Byte) (w w' : Word) :
    (o ++ w : CmdWord) &&& (o' ++ w' : CmdWord) = ((o &&& o') ++ (w &&& w') : CmdWord) := BitVec.and_append

theorem highBits_zero_iff (v : Word) : v &&& 0xFFFFFF00#32 = 0#32 ↔ v.extractLsb' 8 24 = 0#24 := by
  constructor <;> intro h <;> apply BitVec.eq_of_getLsbD_eq <;> intro i hi
  · have hone : ∀ k < 24, (0xFFFFFF00#32).getLsbD (8 + k) = true := by decide
    have := congrArg (fun x : Word => x.getLsbD (8 + i)) h
    simpa [hi, hone i hi] using this
  · by_cases h8 : i < 8
    · have hzero : ∀ k < 8, (0xFFFFFF00#32).getLsbD k = false := by decide
      simp [hzero i h8]
    · have := congrArg (fun x : BitVec 24 => x.getLsbD (i - 8)) h
      simp [show i - 8 < 24 by omega, show 8 + (i - 8) = i by omega] at this
      simp [this]

/-- A row is selected by exactly the words with its `op` byte and its format's zero bits: the match and mask columns of
`30_encoding.md` R50 say what R46 to R48 say. -/
theorem selects_iff (r : OpcodeRow) (hr : r ∈ opcodeMap) (cw : CmdWord) :
    r.selects cw = true ↔ opField cw = r.opcode.byte ∧ operandOk r.opcode.format (immField cw) = true := by
  have hN : ∀ p : Byte, (cw &&& 0xFFFFFFFFFF#40 = (p ++ 0#32 : CmdWord)) ↔ opField cw = p ∧ immField cw = 0#32 := by
    intro p
    have h : cw &&& 0xFFFFFFFFFF#40 = ((opField cw &&& 0xFF#8) ++ (immField cw &&& 0xFFFFFFFF#32) : CmdWord) := by
      rw [← and_append, ← cmdWord_split]; rfl
    rw [h, append_inj, show (0xFF#8) = BitVec.allOnes 8 from rfl, show (0xFFFFFFFF#32) = BitVec.allOnes 32 from rfl,
      BitVec.and_allOnes, BitVec.and_allOnes]
  have hB : ∀ p : Byte, (cw &&& 0xFFFFFFFF00#40 = (p ++ 0#32 : CmdWord)) ↔
      opField cw = p ∧ (immField cw).extractLsb' 8 24 = 0#24 := by
    intro p
    have h : cw &&& 0xFFFFFFFF00#40 = ((opField cw &&& 0xFF#8) ++ (immField cw &&& 0xFFFFFF00#32) : CmdWord) := by
      rw [← and_append, ← cmdWord_split]; rfl
    rw [h, append_inj, show (0xFF#8) = BitVec.allOnes 8 from rfl, BitVec.and_allOnes, highBits_zero_iff]
  have hW : ∀ p : Byte, (cw &&& 0xFF00000000#40 = (p ++ 0#32 : CmdWord)) ↔ opField cw = p := by
    intro p
    have h : cw &&& 0xFF00000000#40 = ((opField cw &&& 0xFF#8) ++ (immField cw &&& 0x00000000#32) : CmdWord) := by
      rw [← and_append, ← cmdWord_split]; rfl
    rw [h, append_inj, show (0xFF#8) = BitVec.allOnes 8 from rfl, BitVec.and_allOnes]
    simp
  simp only [OpcodeRow.selects, beq_iff_eq]
  simp only [opcodeMap, List.mem_cons, List.not_mem_nil, or_false] at hr
  rcases hr with rfl | rfl | rfl | rfl | rfl | rfl | rfl | rfl | rfl | rfl | rfl
  · simpa [operandOk, Opcode.format, Opcode.byte] using hN 0x01#8
  · simpa [operandOk, Opcode.format, Opcode.byte] using hB 0x02#8
  · simpa [operandOk, Opcode.format, Opcode.byte] using hN 0x03#8
  · simpa [operandOk, Opcode.format, Opcode.byte] using hW 0x10#8
  · simpa [operandOk, Opcode.format, Opcode.byte] using hW 0x11#8
  · simpa [operandOk, Opcode.format, Opcode.byte] using hW 0x12#8
  · simpa [operandOk, Opcode.format, Opcode.byte] using hN 0x18#8
  · simpa [operandOk, Opcode.format, Opcode.byte] using hB 0x19#8
  · simpa [operandOk, Opcode.format, Opcode.byte] using hN 0x20#8
  · simpa [operandOk, Opcode.format, Opcode.byte] using hN 0x30#8
  · simpa [operandOk, Opcode.format, Opcode.byte] using hN 0x31#8
theorem byte_injective : ∀ o o' : Opcode, o.byte = o'.byte → o = o' := by
  intro o o' h; cases o <;> cases o' <;> first | rfl | exact absurd h (by decide)

theorem exists_row (o : Opcode) : ∃ r ∈ opcodeMap, r.opcode = o := by
  cases o <;> decide

/-- What the decoder accepts, and as what. -/
theorem decode_ok_iff (cw : CmdWord) (i : Instr) :
    decode cw = .ok i ↔
      ∃ o : Opcode, opField cw = o.byte ∧ operandOk o.format (immField cw) = true ∧ i = o.instr (immField cw) := by
  rcases hf : opcodeMap.find? (·.selects cw) with _ | r
  · have hd : decode cw = .error (whyIllegal cw) := by simp only [decode, hf]
    rw [hd]
    refine ⟨nofun, ?_⟩
    rintro ⟨o, h1, h2, -⟩
    obtain ⟨r, hr, rfl⟩ := exists_row o
    exact absurd ((selects_iff r hr cw).mpr ⟨h1, h2⟩) (List.find?_eq_none.mp hf r hr)
  · have hd : decode cw = .ok (r.opcode.instr (immField cw)) := by simp only [decode, hf]
    have hs : r.selects cw = true := List.find?_some (p := fun r : OpcodeRow => r.selects cw) hf
    obtain ⟨h1, h2⟩ := (selects_iff r (List.mem_of_find?_eq_some hf) cw).mp hs
    rw [hd]
    constructor
    · intro h; exact ⟨r.opcode, h1, h2, by cases h; rfl⟩
    · rintro ⟨o, h3, -, rfl⟩
      rw [byte_injective o r.opcode (h3.symm.trans h1)]

/-- What the decoder rejects. -/
theorem decode_error_iff (cw : CmdWord) :
    (∃ e, decode cw = .error e) ↔ ∀ o : Opcode, opField cw = o.byte → operandOk o.format (immField cw) = false := by
  constructor
  · rintro ⟨e, he⟩ o ho
    by_contra hne
    have := (decode_ok_iff cw (o.instr (immField cw))).mpr ⟨o, ho, by simpa using hne, rfl⟩
    rw [he] at this; cases this
  · intro h
    rcases hd : decode cw with e | i
    · exact ⟨e, rfl⟩
    · obtain ⟨o, h1, h2, -⟩ := (decode_ok_iff cw i).mp hd
      rw [h o h1] at h2; cases h2

end Sys2Proof.Laws
end

