-- ==== Sys2Proof/Laws/Flags.lean ====
section
/-! SUPPORT. The fields of `ST` after each write of a field. -/

namespace Sys2Proof.Machine

/-- A field write puts its value in its own bits and leaves the others alone. -/
theorem getLsbD_putField {n : Nat} (lo : Nat) (v : BitVec n) (st : Word) (k : Nat) (hk : k < 32) :
    (putField lo v st).getLsbD k = if lo ≤ k ∧ k < lo + n then v.getLsbD (k - lo) else st.getLsbD k := by
  have hv : ¬ (k - lo < n) → v.getLsbD (k - lo) = false := fun h => BitVec.getLsbD_of_ge v _ (by omega)
  by_cases h1 : k < lo
  · have : ¬ (lo ≤ k ∧ k < lo + n) := by omega
    simp [putField, hk, h1, this]
  · by_cases h2 : k - lo < n
    · have : lo ≤ k ∧ k < lo + n := by omega
      simp [putField, hk, h1, h2, this]
    · have : ¬ (lo ≤ k ∧ k < lo + n) := by omega
      simp [putField, hk, h1, h2, this, hv h2]

/-- A field reads back what was put in it. -/
theorem extract_putField_same {n : Nat} (lo : Nat) (v : BitVec n) (st : Word) (h : lo + n ≤ 32) :
    (putField lo v st).extractLsb' lo n = v := by
  apply BitVec.eq_of_getLsbD_eq
  intro i hi
  have h1 : lo ≤ lo + i ∧ lo + i < lo + n := by omega
  rw [BitVec.getLsbD_extractLsb', getLsbD_putField lo v st (lo + i) (by omega), if_pos h1]
  simp [hi]

/-- A field next to it is not changed. -/
theorem extract_putField_other {n : Nat} (lo : Nat) (v : BitVec n) (st : Word) (lo' n' : Nat) (h' : lo' + n' ≤ 32)
    (h : lo' + n' ≤ lo ∨ lo + n ≤ lo') : (putField lo v st).extractLsb' lo' n' = st.extractLsb' lo' n' := by
  apply BitVec.eq_of_getLsbD_eq
  intro i hi
  have h1 : ¬ (lo ≤ lo' + i ∧ lo' + i < lo + n) := by omega
  rw [BitVec.getLsbD_extractLsb', BitVec.getLsbD_extractLsb', getLsbD_putField lo v st (lo' + i) (by omega), if_neg h1]

/-- A bit outside the field is not changed. -/
theorem getLsbD_putField_other {n : Nat} (lo : Nat) (v : BitVec n) (st : Word) (k : Nat) (hk : k < 32)
    (h : k < lo ∨ lo + n ≤ k) : (putField lo v st).getLsbD k = st.getLsbD k := by
  rw [getLsbD_putField lo v st k hk, if_neg (by omega)]

/-- No field write touches a reserved bit: the fields lie in bits 4:0 and 15:8 (`10_state.md` R16). -/
theorem reserved_putField {n : Nat} (lo : Nat) (v : BitVec n) (st : Word) (h : lo + n ≤ 5 ∨ (8 ≤ lo ∧ lo + n ≤ 16)) :
    St.reserved (putField lo v st) = St.reserved st := by
  apply BitVec.eq_of_getLsbD_eq
  intro i hi
  simp only [St.reserved, BitVec.getLsbD_and, getLsbD_putField lo v st i hi]
  split
  · rename_i h1
    have h2 : i < 5 ∨ (8 ≤ i ∧ i < 16) := by omega
    have h3 : ∀ j < 32, (j < 5 ∨ (8 ≤ j ∧ j < 16)) → (0xFFFF00E0#32).getLsbD j = false := by decide
    rw [h3 i hi h2]; simp
  · rfl

/-! ### Each setter, field by field -/

@[simp] theorem St.outcome_setFbv (st : Word) : St.outcome (St.setFbv st) = St.outcome st :=
  extract_putField_other 2 _ st 0 2 (by decide) (by decide)
@[simp] theorem St.fbv_setFbv (st : Word) : St.fbv (St.setFbv st) = true := by
  rw [St.fbv, St.setFbv, getLsbD_putField _ _ _ _ (by decide)]; rfl
@[simp] theorem St.ill_setFbv (st : Word) : St.ill (St.setFbv st) = St.ill st :=
  getLsbD_putField_other 2 _ st 3 (by decide) (by decide)
@[simp] theorem St.idx_setFbv (st : Word) : St.idx (St.setFbv st) = St.idx st :=
  getLsbD_putField_other 2 _ st 4 (by decide) (by decide)
@[simp] theorem St.detail_setFbv (st : Word) : St.detail (St.setFbv st) = St.detail st :=
  extract_putField_other 2 _ st 8 8 (by decide) (by decide)
@[simp] theorem St.reserved_setFbv (st : Word) : St.reserved (St.setFbv st) = St.reserved st :=
  reserved_putField 2 _ st (by decide)

@[simp] theorem St.outcome_setIll (v : BitVec 1) (st : Word) : St.outcome (St.setIll v st) = St.outcome st :=
  extract_putField_other 3 _ st 0 2 (by decide) (by decide)
@[simp] theorem St.fbv_setIll (v : BitVec 1) (st : Word) : St.fbv (St.setIll v st) = St.fbv st :=
  getLsbD_putField_other 3 _ st 2 (by decide) (by decide)
@[simp] theorem St.ill_setIll (v : BitVec 1) (st : Word) : St.ill (St.setIll v st) = v.getLsbD 0 := by
  rw [St.ill, St.setIll, getLsbD_putField _ _ _ _ (by decide)]; simp
@[simp] theorem St.idx_setIll (v : BitVec 1) (st : Word) : St.idx (St.setIll v st) = St.idx st :=
  getLsbD_putField_other 3 _ st 4 (by decide) (by decide)
@[simp] theorem St.detail_setIll (v : BitVec 1) (st : Word) : St.detail (St.setIll v st) = St.detail st :=
  extract_putField_other 3 _ st 8 8 (by decide) (by decide)
@[simp] theorem St.reserved_setIll (v : BitVec 1) (st : Word) : St.reserved (St.setIll v st) = St.reserved st :=
  reserved_putField 3 _ st (by decide)

@[simp] theorem St.outcome_setIdx (v : BitVec 1) (st : Word) : St.outcome (St.setIdx v st) = St.outcome st :=
  extract_putField_other 4 _ st 0 2 (by decide) (by decide)
@[simp] theorem St.fbv_setIdx (v : BitVec 1) (st : Word) : St.fbv (St.setIdx v st) = St.fbv st :=
  getLsbD_putField_other 4 _ st 2 (by decide) (by decide)
@[simp] theorem St.ill_setIdx (v : BitVec 1) (st : Word) : St.ill (St.setIdx v st) = St.ill st :=
  getLsbD_putField_other 4 _ st 3 (by decide) (by decide)
@[simp] theorem St.idx_setIdx (v : BitVec 1) (st : Word) : St.idx (St.setIdx v st) = v.getLsbD 0 := by
  rw [St.idx, St.setIdx, getLsbD_putField _ _ _ _ (by decide)]; simp
@[simp] theorem St.detail_setIdx (v : BitVec 1) (st : Word) : St.detail (St.setIdx v st) = St.detail st :=
  extract_putField_other 4 _ st 8 8 (by decide) (by decide)
@[simp] theorem St.reserved_setIdx (v : BitVec 1) (st : Word) : St.reserved (St.setIdx v st) = St.reserved st :=
  reserved_putField 4 _ st (by decide)

@[simp] theorem St.outcome_record (o : SendOutcome) (d : Byte) (st : Word) : St.outcome (St.record o d st) = o.code := by
  rw [St.outcome, St.record, St.setDetail, extract_putField_other 8 d _ 0 2 (by decide) (by decide)]
  exact extract_putField_same 0 o.code st (by decide)
@[simp] theorem St.fbv_record (o : SendOutcome) (d : Byte) (st : Word) : St.fbv (St.record o d st) = St.fbv st := by
  rw [St.fbv, St.record, St.setDetail, getLsbD_putField_other 8 d _ 2 (by decide) (by decide)]
  exact getLsbD_putField_other 0 o.code st 2 (by decide) (by decide)
@[simp] theorem St.ill_record (o : SendOutcome) (d : Byte) (st : Word) : St.ill (St.record o d st) = St.ill st := by
  rw [St.ill, St.record, St.setDetail, getLsbD_putField_other 8 d _ 3 (by decide) (by decide)]
  exact getLsbD_putField_other 0 o.code st 3 (by decide) (by decide)
@[simp] theorem St.idx_record (o : SendOutcome) (d : Byte) (st : Word) : St.idx (St.record o d st) = St.idx st := by
  rw [St.idx, St.record, St.setDetail, getLsbD_putField_other 8 d _ 4 (by decide) (by decide)]
  exact getLsbD_putField_other 0 o.code st 4 (by decide) (by decide)
@[simp] theorem St.detail_record (o : SendOutcome) (d : Byte) (st : Word) : St.detail (St.record o d st) = d :=
  extract_putField_same 8 d _ (by decide)
@[simp] theorem St.reserved_record (o : SendOutcome) (d : Byte) (st : Word) :
    St.reserved (St.record o d st) = St.reserved st := by
  rw [St.record, St.setDetail, reserved_putField 8 d _ (by decide), St.setOutcome, reserved_putField 0 o.code st (by decide)]

end Sys2Proof.Machine
end

