-- ==== Sys2Proof/Laws/Memory.lean ====
section
/-! SUPPORT. The frame buffer: what a read sees after a write, and that every operation keeps the canonical form. -/

namespace Sys2Proof.Machine

/-! ### Reads after writes -/

theorem Memory.read_insert (m : Memory) (a j : Nat) (b : Byte) :
    (m.insert a b).read j = if j = a then b else m.read j := by
  induction m with
  | nil => simp [Memory.insert, Memory.read, eq_comm]
  | cons c t ih =>
    obtain ⟨k, v⟩ := c
    simp only [Memory.insert]
    split
    · simp only [Memory.read, eq_comm]
    · split
      · rename_i h; subst h
        simp only [Memory.read, eq_comm]
        split <;> rfl
      · simp only [Memory.read, ih]
        split <;> split <;> simp_all

theorem Memory.read_filter (m : Memory) (a j : Nat) :
    Memory.read (m.filter (fun c => c.1 != a)) j = if j = a then Config.FB_RESET else m.read j := by
  induction m with
  | nil => simp [Memory.read]
  | cons c t ih =>
    obtain ⟨k, v⟩ := c
    by_cases hk : k = a
    · subst hk
      simp only [List.filter_cons, bne_self_eq_false, Bool.false_eq_true, if_false, Memory.read, ih]
      by_cases hj : j = k
      · simp [hj]
      · have : ¬ k = j := fun h => hj h.symm
        simp [hj, this]
    · simp only [List.filter_cons, Memory.read]
      simp only [bne_iff_ne, ne_eq, hk, not_false_eq_true, if_true, Memory.read, ih]
      split <;> split <;> simp_all

/-- A write puts its byte at its own index and leaves every other index alone; above 40 it does nothing. -/
theorem Memory.read_write (m : Memory) (a j : Nat) (b : Byte) :
    (m.write a b).read j = if j = a ∧ a < 41 then b else m.read j := by
  unfold Memory.write
  by_cases ha : a < Config.FRAME_LEN
  · have ha' : a < 41 := ha
    simp only [ha, if_true, ha', and_true]
    split
    · rename_i hb; rw [Memory.read_filter, hb]
    · rw [Memory.read_insert]
  · have ha' : ¬ a < 41 := ha
    simp [ha, ha']

theorem Memory.read_writeBytes (l : List Byte) (m : Memory) (a j : Nat) :
    (m.writeBytes a l).read j =
      if a ≤ j ∧ j < a + l.length ∧ j < 41 then l.getD (j - a) 0#8 else m.read j := by
  induction l generalizing m a with
  | nil =>
    have : ¬ (a ≤ j ∧ j < a + ([] : List Byte).length ∧ j < 41) := by simp only [List.length_nil]; omega
    rw [if_neg this]; rfl
  | cons b t ih =>
    simp only [Memory.writeBytes, ih, Memory.read_write, List.length_cons]
    by_cases h1 : j = a
    · subst h1
      have : ¬ (j + 1 ≤ j ∧ j < j + 1 + t.length ∧ j < 41) := by omega
      rw [if_neg this]
      by_cases h2 : j < 41
      · rw [if_pos ⟨rfl, h2⟩, if_pos ⟨le_refl j, by omega, h2⟩]; simp
      · rw [if_neg (by simp [h2]), if_neg (by omega)]
    · by_cases h2 : a + 1 ≤ j ∧ j < a + 1 + t.length ∧ j < 41
      · have h3 : a ≤ j ∧ j < a + (t.length + 1) ∧ j < 41 := by omega
        have h4 : j - a = j - (a + 1) + 1 := by omega
        rw [if_pos h2, if_pos h3, h4]; simp
      · have h3 : ¬ (a ≤ j ∧ j < a + (t.length + 1) ∧ j < 41) := by omega
        rw [if_neg h2, if_neg h3, if_neg (by simp [h1])]

@[simp] theorem Memory.length_bytes (m : Memory) : m.bytes.length = 41 := by simp [Memory.bytes, Config.FRAME_LEN]

theorem Memory.getElem_bytes (m : Memory) (k : Nat) (h : k < m.bytes.length) : m.bytes[k] = m.read k := by
  simp [Memory.bytes]

/-- Writing a whole frame leaves exactly its bytes. -/
theorem Memory.bytes_writeBytes (m : Memory) (l : List Byte) (h : l.length = 41) : (m.writeBytes 0 l).bytes = l := by
  apply List.ext_getElem
  · simp [h]
  · intro k h1 h2
    rw [Memory.getElem_bytes, Memory.read_writeBytes, if_pos (by omega)]
    simp [List.getD_eq_getElem?_getD, h2]

/-! ### The canonical form -/

theorem Memory.wfFrom_mono (m : Memory) (lo lo' : Nat) (hl : lo' ≤ lo) (h : Memory.wfFrom lo m = true) :
    Memory.wfFrom lo' m = true := by
  cases m with
  | nil => rfl
  | cons c t =>
    obtain ⟨k, v⟩ := c
    simp only [Memory.wfFrom, Bool.and_eq_true, decide_eq_true_eq] at h ⊢
    refine ⟨⟨⟨by omega, h.1.1.2⟩, h.1.2⟩, h.2⟩

theorem Memory.insert_wfFrom (m : Memory) (lo a : Nat) (b : Byte) (hlo : lo ≤ a) (ha : a < Config.FRAME_LEN)
    (hb : b ≠ Config.FB_RESET) (h : Memory.wfFrom lo m = true) : Memory.wfFrom lo (m.insert a b) = true := by
  induction m generalizing lo with
  | nil => simp [Memory.insert, Memory.wfFrom, hlo, ha, hb]
  | cons c t ih =>
    obtain ⟨k, v⟩ := c
    have hh := h
    simp only [Memory.wfFrom, Bool.and_eq_true, decide_eq_true_eq, bne_iff_ne] at hh
    obtain ⟨⟨⟨h1, h2⟩, h3⟩, h4⟩ := hh
    simp only [Memory.insert]
    split
    · rename_i hk
      simp only [Memory.wfFrom, Bool.and_eq_true, decide_eq_true_eq, bne_iff_ne]
      exact ⟨⟨⟨hlo, ha⟩, hb⟩, ⟨⟨hk, h2⟩, h3⟩, h4⟩
    · split
      · rename_i hk; subst hk
        simp only [Memory.wfFrom, Bool.and_eq_true, decide_eq_true_eq, bne_iff_ne]
        exact ⟨⟨⟨h1, h2⟩, hb⟩, h4⟩
      · simp only [Memory.wfFrom, Bool.and_eq_true, decide_eq_true_eq, bne_iff_ne]
        exact ⟨⟨⟨h1, h2⟩, h3⟩, ih (k + 1) (by omega) h4⟩

theorem Memory.filter_wfFrom (m : Memory) (lo a : Nat) (h : Memory.wfFrom lo m = true) :
    Memory.wfFrom lo (m.filter (fun c => c.1 != a)) = true := by
  induction m generalizing lo with
  | nil => rfl
  | cons c t ih =>
    obtain ⟨k, v⟩ := c
    simp only [Memory.wfFrom, Bool.and_eq_true, decide_eq_true_eq, bne_iff_ne] at h
    obtain ⟨⟨⟨h1, h2⟩, h3⟩, h4⟩ := h
    by_cases hk : k = a
    · have : (k != a) = false := by simp [hk]
      simp only [List.filter_cons, this]
      exact Memory.wfFrom_mono _ (k + 1) lo (by omega) (ih (k + 1) h4)
    · have : (k != a) = true := by simp [hk]
      simp only [List.filter_cons, this, if_true, Memory.wfFrom, Bool.and_eq_true, decide_eq_true_eq, bne_iff_ne]
      exact ⟨⟨⟨h1, h2⟩, h3⟩, ih (k + 1) h4⟩

/-- A write keeps the canonical form. -/
theorem Memory.write_wf (m : Memory) (a : Nat) (b : Byte) (h : m.wf = true) : (m.write a b).wf = true := by
  unfold Memory.write
  split
  · rename_i ha
    split
    · exact Memory.filter_wfFrom m 0 a h
    · rename_i hb; exact Memory.insert_wfFrom m 0 a b (Nat.zero_le a) ha hb h
  · exact h

theorem Memory.writeBytes_wf (l : List Byte) (m : Memory) (a : Nat) (h : m.wf = true) : (m.writeBytes a l).wf = true := by
  induction l generalizing m a with
  | nil => exact h
  | cons b t ih => exact ih (m.write a b) (a + 1) (Memory.write_wf m a b h)

theorem Memory.memWrite_wf (m : Memory) (a n : Nat) (v : BitVec (8 * n)) (h : m.wf = true) :
    (m.memWrite a n v).wf = true := Memory.writeBytes_wf _ m a h

theorem Memory.empty_wf : Memory.wf [] = true := rfl

/-- A canonical buffer reads as the reset byte below its first listed index. -/
theorem Memory.read_below (m : Memory) (lo j : Nat) (h : Memory.wfFrom lo m = true) (hj : j < lo) :
    m.read j = Config.FB_RESET := by
  induction m generalizing lo with
  | nil => rfl
  | cons c t ih =>
    obtain ⟨k, v⟩ := c
    simp only [Memory.wfFrom, Bool.and_eq_true, decide_eq_true_eq] at h
    simp only [Memory.read]
    rw [if_neg (by omega)]
    exact ih (k + 1) h.2 (by omega)

/-! ### Multi-byte values -/

@[simp] theorem length_leBytes (n : Nat) (v : BitVec (8 * n)) : (leBytes n v).length = n := by simp [leBytes]

theorem getElem_leBytes (n : Nat) (v : BitVec (8 * n)) (k : Nat) (h : k < (leBytes n v).length) :
    (leBytes n v)[k] = v.extractLsb' (8 * k) 8 := by simp [leBytes]

/-- Byte `k` of a `MemRead` is the byte at index `a + k`: least significant first. -/
theorem Memory.byte_memRead (m : Memory) (a n k : Nat) (hk : k < n) :
    (m.memRead a n).extractLsb' (8 * k) 8 = m.read (a + k) := by
  induction n with
  | zero => omega
  | succ n ih =>
    apply BitVec.eq_of_getLsbD_eq
    intro i hi
    simp only [Memory.memRead, BitVec.getLsbD_extractLsb', hi, decide_true, Bool.true_and, BitVec.getLsbD_cast,
      BitVec.getLsbD_append]
    by_cases h : k = n
    · subst h
      rw [if_neg (by omega)]
      congr 1; omega
    · have h' : k < n := by omega
      rw [if_pos (by omega)]
      have := congrArg (fun b : Byte => b.getLsbD i) (ih h')
      simpa [hi] using this

/-! ### The frame -/

@[simp] theorem length_payload (x y z : Word) : (payload x y z).length = 36 := rfl

@[simp] theorem length_frame (x y z : Word) : (frame x y z).length = 41 := rfl

theorem encodeSample_bytes (s : State) : (encodeSample s).fb.bytes = frame s.vx s.vy s.wz :=
  Memory.bytes_writeBytes s.fb _ (length_frame _ _ _)

theorem encodeSample_wf (s : State) (h : s.fb.wf = true) : (encodeSample s).fb.wf = true :=
  Memory.writeBytes_wf _ s.fb 0 h

end Sys2Proof.Machine
end

