-- ==== Sys2Proof/Laws/Run.lean ====
section
/-! SUPPORT. Runs: taken apart, and the same as the host interface's. -/

namespace Sys2Proof.Machine

theorem run_succ (k : Nat) (s t : State) (h : step s = .next t) : run (k + 1) s = run k t := by simp only [run, h]

/-- A run of `j + k` steps is a run of `k` steps from where `j` steps end. -/
theorem run_add (j k : Nat) (s t : State) (h : run j s = .next t) : run (j + k) s = run k t := by
  induction j generalizing s with
  | zero => cases h; rw [Nat.zero_add]
  | succ j ih =>
    rw [Nat.succ_add]
    simp only [run] at h ⊢
    split at h
    · exact ih _ h
    · cases h
    · cases h

/-- The runs of `Safety.lean` are those of `Host/Core.lean`. -/
theorem run_eq_core_run (k : Nat) (s : State) : run k s = Host.Core.run Sys2Proof.core k s := by
  induction k generalizing s with
  | zero => rfl
  | succ k ih =>
    rcases hs : step s with t | r | r
    · have h : Sys2Proof.core.step s = .next t := hs
      simp only [run, Host.Core.run, hs, h]
      exact ih t
    · cases r
    · have h : Sys2Proof.core.step s = .refused r := hs
      simp only [run, Host.Core.run, hs, h]
      rfl

end Sys2Proof.Machine
end

