-- ==== Sys2Proof/Laws/State.lean ====
section
/-! SUPPORT. One lemma per field per update, true by `rfl`, so that no later proof unfolds a record update. -/

namespace Sys2Proof.Machine

/-! ### setVx -/

@[simp] theorem State.setVx_vx (s : State) (w : Word) : (s.setVx w).vx = w := rfl
@[simp] theorem State.setVx_vy (s : State) (w : Word) : (s.setVx w).vy = s.vy := rfl
@[simp] theorem State.setVx_wz (s : State) (w : Word) : (s.setVx w).wz = s.wz := rfl
@[simp] theorem State.setVx_crcAcc (s : State) (w : Word) : (s.setVx w).crcAcc = s.crcAcc := rfl
@[simp] theorem State.setVx_fb (s : State) (w : Word) : (s.setVx w).fb = s.fb := rfl
@[simp] theorem State.setVx_st (s : State) (w : Word) : (s.setVx w).st = s.st := rfl
@[simp] theorem State.setVx_trace (s : State) (w : Word) : (s.setVx w).trace = s.trace := rfl
@[simp] theorem State.setVx_rsps (s : State) (w : Word) : (s.setVx w).rsps = s.rsps := rfl
@[simp] theorem State.setVx_delivered (s : State) (w : Word) : (s.setVx w).delivered = s.delivered := rfl
@[simp] theorem State.setVx_inputs (s : State) (w : Word) : (s.setVx w).inputs = s.inputs := rfl
@[simp] theorem State.setVx_answers (s : State) (w : Word) : (s.setVx w).answers = s.answers := rfl
@[simp] theorem State.setVx_draws (s : State) (w : Word) : (s.setVx w).draws = s.draws := rfl

/-! ### setVy -/

@[simp] theorem State.setVy_vx (s : State) (w : Word) : (s.setVy w).vx = s.vx := rfl
@[simp] theorem State.setVy_vy (s : State) (w : Word) : (s.setVy w).vy = w := rfl
@[simp] theorem State.setVy_wz (s : State) (w : Word) : (s.setVy w).wz = s.wz := rfl
@[simp] theorem State.setVy_crcAcc (s : State) (w : Word) : (s.setVy w).crcAcc = s.crcAcc := rfl
@[simp] theorem State.setVy_fb (s : State) (w : Word) : (s.setVy w).fb = s.fb := rfl
@[simp] theorem State.setVy_st (s : State) (w : Word) : (s.setVy w).st = s.st := rfl
@[simp] theorem State.setVy_trace (s : State) (w : Word) : (s.setVy w).trace = s.trace := rfl
@[simp] theorem State.setVy_rsps (s : State) (w : Word) : (s.setVy w).rsps = s.rsps := rfl
@[simp] theorem State.setVy_delivered (s : State) (w : Word) : (s.setVy w).delivered = s.delivered := rfl
@[simp] theorem State.setVy_inputs (s : State) (w : Word) : (s.setVy w).inputs = s.inputs := rfl
@[simp] theorem State.setVy_answers (s : State) (w : Word) : (s.setVy w).answers = s.answers := rfl
@[simp] theorem State.setVy_draws (s : State) (w : Word) : (s.setVy w).draws = s.draws := rfl

/-! ### setWz -/

@[simp] theorem State.setWz_vx (s : State) (w : Word) : (s.setWz w).vx = s.vx := rfl
@[simp] theorem State.setWz_vy (s : State) (w : Word) : (s.setWz w).vy = s.vy := rfl
@[simp] theorem State.setWz_wz (s : State) (w : Word) : (s.setWz w).wz = w := rfl
@[simp] theorem State.setWz_crcAcc (s : State) (w : Word) : (s.setWz w).crcAcc = s.crcAcc := rfl
@[simp] theorem State.setWz_fb (s : State) (w : Word) : (s.setWz w).fb = s.fb := rfl
@[simp] theorem State.setWz_st (s : State) (w : Word) : (s.setWz w).st = s.st := rfl
@[simp] theorem State.setWz_trace (s : State) (w : Word) : (s.setWz w).trace = s.trace := rfl
@[simp] theorem State.setWz_rsps (s : State) (w : Word) : (s.setWz w).rsps = s.rsps := rfl
@[simp] theorem State.setWz_delivered (s : State) (w : Word) : (s.setWz w).delivered = s.delivered := rfl
@[simp] theorem State.setWz_inputs (s : State) (w : Word) : (s.setWz w).inputs = s.inputs := rfl
@[simp] theorem State.setWz_answers (s : State) (w : Word) : (s.setWz w).answers = s.answers := rfl
@[simp] theorem State.setWz_draws (s : State) (w : Word) : (s.setWz w).draws = s.draws := rfl

/-! ### setCrcAcc -/

@[simp] theorem State.setCrcAcc_vx (s : State) (c : Crc) : (s.setCrcAcc c).vx = s.vx := rfl
@[simp] theorem State.setCrcAcc_vy (s : State) (c : Crc) : (s.setCrcAcc c).vy = s.vy := rfl
@[simp] theorem State.setCrcAcc_wz (s : State) (c : Crc) : (s.setCrcAcc c).wz = s.wz := rfl
@[simp] theorem State.setCrcAcc_crcAcc (s : State) (c : Crc) : (s.setCrcAcc c).crcAcc = c := rfl
@[simp] theorem State.setCrcAcc_fb (s : State) (c : Crc) : (s.setCrcAcc c).fb = s.fb := rfl
@[simp] theorem State.setCrcAcc_st (s : State) (c : Crc) : (s.setCrcAcc c).st = s.st := rfl
@[simp] theorem State.setCrcAcc_trace (s : State) (c : Crc) : (s.setCrcAcc c).trace = s.trace := rfl
@[simp] theorem State.setCrcAcc_rsps (s : State) (c : Crc) : (s.setCrcAcc c).rsps = s.rsps := rfl
@[simp] theorem State.setCrcAcc_delivered (s : State) (c : Crc) : (s.setCrcAcc c).delivered = s.delivered := rfl
@[simp] theorem State.setCrcAcc_inputs (s : State) (c : Crc) : (s.setCrcAcc c).inputs = s.inputs := rfl
@[simp] theorem State.setCrcAcc_answers (s : State) (c : Crc) : (s.setCrcAcc c).answers = s.answers := rfl
@[simp] theorem State.setCrcAcc_draws (s : State) (c : Crc) : (s.setCrcAcc c).draws = s.draws := rfl

/-! ### setFb -/

@[simp] theorem State.setFb_vx (s : State) (m : Memory) : (s.setFb m).vx = s.vx := rfl
@[simp] theorem State.setFb_vy (s : State) (m : Memory) : (s.setFb m).vy = s.vy := rfl
@[simp] theorem State.setFb_wz (s : State) (m : Memory) : (s.setFb m).wz = s.wz := rfl
@[simp] theorem State.setFb_crcAcc (s : State) (m : Memory) : (s.setFb m).crcAcc = s.crcAcc := rfl
@[simp] theorem State.setFb_fb (s : State) (m : Memory) : (s.setFb m).fb = m := rfl
@[simp] theorem State.setFb_st (s : State) (m : Memory) : (s.setFb m).st = s.st := rfl
@[simp] theorem State.setFb_trace (s : State) (m : Memory) : (s.setFb m).trace = s.trace := rfl
@[simp] theorem State.setFb_rsps (s : State) (m : Memory) : (s.setFb m).rsps = s.rsps := rfl
@[simp] theorem State.setFb_delivered (s : State) (m : Memory) : (s.setFb m).delivered = s.delivered := rfl
@[simp] theorem State.setFb_inputs (s : State) (m : Memory) : (s.setFb m).inputs = s.inputs := rfl
@[simp] theorem State.setFb_answers (s : State) (m : Memory) : (s.setFb m).answers = s.answers := rfl
@[simp] theorem State.setFb_draws (s : State) (m : Memory) : (s.setFb m).draws = s.draws := rfl

/-! ### setSt -/

@[simp] theorem State.setSt_vx (s : State) (v : Word) : (s.setSt v).vx = s.vx := rfl
@[simp] theorem State.setSt_vy (s : State) (v : Word) : (s.setSt v).vy = s.vy := rfl
@[simp] theorem State.setSt_wz (s : State) (v : Word) : (s.setSt v).wz = s.wz := rfl
@[simp] theorem State.setSt_crcAcc (s : State) (v : Word) : (s.setSt v).crcAcc = s.crcAcc := rfl
@[simp] theorem State.setSt_fb (s : State) (v : Word) : (s.setSt v).fb = s.fb := rfl
@[simp] theorem State.setSt_st (s : State) (v : Word) : (s.setSt v).st = v := rfl
@[simp] theorem State.setSt_trace (s : State) (v : Word) : (s.setSt v).trace = s.trace := rfl
@[simp] theorem State.setSt_rsps (s : State) (v : Word) : (s.setSt v).rsps = s.rsps := rfl
@[simp] theorem State.setSt_delivered (s : State) (v : Word) : (s.setSt v).delivered = s.delivered := rfl
@[simp] theorem State.setSt_inputs (s : State) (v : Word) : (s.setSt v).inputs = s.inputs := rfl
@[simp] theorem State.setSt_answers (s : State) (v : Word) : (s.setSt v).answers = s.answers := rfl
@[simp] theorem State.setSt_draws (s : State) (v : Word) : (s.setSt v).draws = s.draws := rfl

/-! ### respond -/

@[simp] theorem State.respond_vx (s : State) (v : Word) : (s.respond v).vx = s.vx := rfl
@[simp] theorem State.respond_vy (s : State) (v : Word) : (s.respond v).vy = s.vy := rfl
@[simp] theorem State.respond_wz (s : State) (v : Word) : (s.respond v).wz = s.wz := rfl
@[simp] theorem State.respond_crcAcc (s : State) (v : Word) : (s.respond v).crcAcc = s.crcAcc := rfl
@[simp] theorem State.respond_fb (s : State) (v : Word) : (s.respond v).fb = s.fb := rfl
@[simp] theorem State.respond_st (s : State) (v : Word) : (s.respond v).st = s.st := rfl
@[simp] theorem State.respond_trace (s : State) (v : Word) : (s.respond v).trace = s.trace := rfl
@[simp] theorem State.respond_rsps (s : State) (v : Word) : (s.respond v).rsps = s.rsps ++ [v] := rfl
@[simp] theorem State.respond_delivered (s : State) (v : Word) : (s.respond v).delivered = s.delivered := rfl
@[simp] theorem State.respond_inputs (s : State) (v : Word) : (s.respond v).inputs = s.inputs := rfl
@[simp] theorem State.respond_answers (s : State) (v : Word) : (s.respond v).answers = s.answers := rfl
@[simp] theorem State.respond_draws (s : State) (v : Word) : (s.respond v).draws = s.draws := rfl

/-! ### emit -/

@[simp] theorem State.emit_vx (s : State) (e : Event) : (s.emit e).vx = s.vx := rfl
@[simp] theorem State.emit_vy (s : State) (e : Event) : (s.emit e).vy = s.vy := rfl
@[simp] theorem State.emit_wz (s : State) (e : Event) : (s.emit e).wz = s.wz := rfl
@[simp] theorem State.emit_crcAcc (s : State) (e : Event) : (s.emit e).crcAcc = s.crcAcc := rfl
@[simp] theorem State.emit_fb (s : State) (e : Event) : (s.emit e).fb = s.fb := rfl
@[simp] theorem State.emit_st (s : State) (e : Event) : (s.emit e).st = s.st := rfl
@[simp] theorem State.emit_trace (s : State) (e : Event) : (s.emit e).trace = s.trace ++ [e] := rfl
@[simp] theorem State.emit_rsps (s : State) (e : Event) : (s.emit e).rsps = s.rsps := rfl
@[simp] theorem State.emit_delivered (s : State) (e : Event) : (s.emit e).delivered = s.delivered := rfl
@[simp] theorem State.emit_inputs (s : State) (e : Event) : (s.emit e).inputs = s.inputs := rfl
@[simp] theorem State.emit_answers (s : State) (e : Event) : (s.emit e).answers = s.answers := rfl
@[simp] theorem State.emit_draws (s : State) (e : Event) : (s.emit e).draws = s.draws := rfl

/-! ### deliver -/

@[simp] theorem State.deliver_vx (s : State) (bs : List Byte) : (s.deliver bs).vx = s.vx := rfl
@[simp] theorem State.deliver_vy (s : State) (bs : List Byte) : (s.deliver bs).vy = s.vy := rfl
@[simp] theorem State.deliver_wz (s : State) (bs : List Byte) : (s.deliver bs).wz = s.wz := rfl
@[simp] theorem State.deliver_crcAcc (s : State) (bs : List Byte) : (s.deliver bs).crcAcc = s.crcAcc := rfl
@[simp] theorem State.deliver_fb (s : State) (bs : List Byte) : (s.deliver bs).fb = s.fb := rfl
@[simp] theorem State.deliver_st (s : State) (bs : List Byte) : (s.deliver bs).st = s.st := rfl
@[simp] theorem State.deliver_trace (s : State) (bs : List Byte) : (s.deliver bs).trace = s.trace := rfl
@[simp] theorem State.deliver_rsps (s : State) (bs : List Byte) : (s.deliver bs).rsps = s.rsps := rfl
@[simp] theorem State.deliver_delivered (s : State) (bs : List Byte) : (s.deliver bs).delivered = s.delivered ++ [bs] := rfl
@[simp] theorem State.deliver_inputs (s : State) (bs : List Byte) : (s.deliver bs).inputs = s.inputs := rfl
@[simp] theorem State.deliver_answers (s : State) (bs : List Byte) : (s.deliver bs).answers = s.answers := rfl
@[simp] theorem State.deliver_draws (s : State) (bs : List Byte) : (s.deliver bs).draws = s.draws := rfl

/-! ### setInputs -/

@[simp] theorem State.setInputs_vx (s : State) (l : List Input) : (s.setInputs l).vx = s.vx := rfl
@[simp] theorem State.setInputs_vy (s : State) (l : List Input) : (s.setInputs l).vy = s.vy := rfl
@[simp] theorem State.setInputs_wz (s : State) (l : List Input) : (s.setInputs l).wz = s.wz := rfl
@[simp] theorem State.setInputs_crcAcc (s : State) (l : List Input) : (s.setInputs l).crcAcc = s.crcAcc := rfl
@[simp] theorem State.setInputs_fb (s : State) (l : List Input) : (s.setInputs l).fb = s.fb := rfl
@[simp] theorem State.setInputs_st (s : State) (l : List Input) : (s.setInputs l).st = s.st := rfl
@[simp] theorem State.setInputs_trace (s : State) (l : List Input) : (s.setInputs l).trace = s.trace := rfl
@[simp] theorem State.setInputs_rsps (s : State) (l : List Input) : (s.setInputs l).rsps = s.rsps := rfl
@[simp] theorem State.setInputs_delivered (s : State) (l : List Input) : (s.setInputs l).delivered = s.delivered := rfl
@[simp] theorem State.setInputs_inputs (s : State) (l : List Input) : (s.setInputs l).inputs = l := rfl
@[simp] theorem State.setInputs_answers (s : State) (l : List Input) : (s.setInputs l).answers = s.answers := rfl
@[simp] theorem State.setInputs_draws (s : State) (l : List Input) : (s.setInputs l).draws = s.draws := rfl

/-! ### raise -/

@[simp] theorem State.raise_vx (s : State) (c : Condition) : (s.raise c).vx = s.vx := rfl
@[simp] theorem State.raise_vy (s : State) (c : Condition) : (s.raise c).vy = s.vy := rfl
@[simp] theorem State.raise_wz (s : State) (c : Condition) : (s.raise c).wz = s.wz := rfl
@[simp] theorem State.raise_crcAcc (s : State) (c : Condition) : (s.raise c).crcAcc = s.crcAcc := rfl
@[simp] theorem State.raise_fb (s : State) (c : Condition) : (s.raise c).fb = s.fb := rfl
@[simp] theorem State.raise_st (s : State) (c : Condition) : (s.raise c).st = c.mark s.st := rfl
@[simp] theorem State.raise_trace (s : State) (c : Condition) : (s.raise c).trace = s.trace := rfl
@[simp] theorem State.raise_rsps (s : State) (c : Condition) : (s.raise c).rsps = s.rsps := rfl
@[simp] theorem State.raise_delivered (s : State) (c : Condition) : (s.raise c).delivered = s.delivered := rfl
@[simp] theorem State.raise_inputs (s : State) (c : Condition) : (s.raise c).inputs = s.inputs := rfl
@[simp] theorem State.raise_answers (s : State) (c : Condition) : (s.raise c).answers = s.answers := rfl
@[simp] theorem State.raise_draws (s : State) (c : Condition) : (s.raise c).draws = s.draws := rfl

/-! ### takeIllegal -/

@[simp] theorem takeIllegal_vx (s : State) : (takeIllegal s).vx = s.vx := rfl
@[simp] theorem takeIllegal_vy (s : State) : (takeIllegal s).vy = s.vy := rfl
@[simp] theorem takeIllegal_wz (s : State) : (takeIllegal s).wz = s.wz := rfl
@[simp] theorem takeIllegal_crcAcc (s : State) : (takeIllegal s).crcAcc = s.crcAcc := rfl
@[simp] theorem takeIllegal_fb (s : State) : (takeIllegal s).fb = s.fb := rfl
@[simp] theorem takeIllegal_st (s : State) : (takeIllegal s).st = Condition.illegalCommand.mark s.st := rfl
@[simp] theorem takeIllegal_trace (s : State) : (takeIllegal s).trace = s.trace := rfl
@[simp] theorem takeIllegal_rsps (s : State) : (takeIllegal s).rsps = s.rsps := rfl
@[simp] theorem takeIllegal_delivered (s : State) : (takeIllegal s).delivered = s.delivered := rfl
@[simp] theorem takeIllegal_inputs (s : State) : (takeIllegal s).inputs = s.inputs := rfl
@[simp] theorem takeIllegal_answers (s : State) : (takeIllegal s).answers = s.answers := rfl
@[simp] theorem takeIllegal_draws (s : State) : (takeIllegal s).draws = s.draws := rfl

/-! ### applyReset -/

@[simp] theorem applyReset_vx (s : State) : (applyReset s).vx = 0#32 := rfl
@[simp] theorem applyReset_vy (s : State) : (applyReset s).vy = 0#32 := rfl
@[simp] theorem applyReset_wz (s : State) : (applyReset s).wz = 0#32 := rfl
@[simp] theorem applyReset_crcAcc (s : State) : (applyReset s).crcAcc = 0xFFFF#16 := rfl
@[simp] theorem applyReset_fb (s : State) : (applyReset s).fb = [] := rfl
@[simp] theorem applyReset_st (s : State) : (applyReset s).st = 0#32 := rfl
@[simp] theorem applyReset_trace (s : State) : (applyReset s).trace = [] := rfl
@[simp] theorem applyReset_rsps (s : State) : (applyReset s).rsps = s.rsps := rfl
@[simp] theorem applyReset_delivered (s : State) : (applyReset s).delivered = s.delivered := rfl
@[simp] theorem applyReset_inputs (s : State) : (applyReset s).inputs = s.inputs := rfl
@[simp] theorem applyReset_answers (s : State) : (applyReset s).answers = s.answers := rfl
@[simp] theorem applyReset_draws (s : State) : (applyReset s).draws = s.draws := rfl

/-! ### afterAnswer: only the answers and the count of draws move -/

@[simp] theorem State.afterAnswer_vx (s : State) : s.afterAnswer.vx = s.vx := by
  unfold State.afterAnswer; split <;> rfl
@[simp] theorem State.afterAnswer_vy (s : State) : s.afterAnswer.vy = s.vy := by
  unfold State.afterAnswer; split <;> rfl
@[simp] theorem State.afterAnswer_wz (s : State) : s.afterAnswer.wz = s.wz := by
  unfold State.afterAnswer; split <;> rfl
@[simp] theorem State.afterAnswer_crcAcc (s : State) : s.afterAnswer.crcAcc = s.crcAcc := by
  unfold State.afterAnswer; split <;> rfl
@[simp] theorem State.afterAnswer_fb (s : State) : s.afterAnswer.fb = s.fb := by
  unfold State.afterAnswer; split <;> rfl
@[simp] theorem State.afterAnswer_st (s : State) : s.afterAnswer.st = s.st := by
  unfold State.afterAnswer; split <;> rfl
@[simp] theorem State.afterAnswer_trace (s : State) : s.afterAnswer.trace = s.trace := by
  unfold State.afterAnswer; split <;> rfl
@[simp] theorem State.afterAnswer_rsps (s : State) : s.afterAnswer.rsps = s.rsps := by
  unfold State.afterAnswer; split <;> rfl
@[simp] theorem State.afterAnswer_delivered (s : State) : s.afterAnswer.delivered = s.delivered := by
  unfold State.afterAnswer; split <;> rfl
@[simp] theorem State.afterAnswer_inputs (s : State) : s.afterAnswer.inputs = s.inputs := by
  unfold State.afterAnswer; split <;> rfl
@[simp] theorem State.afterAnswer_answers (s : State) : s.afterAnswer.answers = s.answers.tail := by
  unfold State.afterAnswer; split <;> simp [*]
@[simp] theorem State.afterAnswer_draws (s : State) :
    s.afterAnswer.draws = if s.answers = [] then s.draws + 1 else s.draws := by
  unfold State.afterAnswer; split <;> simp [*]

/-! ### nextAnswer: the first answer listed, else the free one at the count of draws -/

theorem State.nextAnswer_cons (s : State) (a : Answer) (l : List Answer) (h : s.answers = a :: l) : s.nextAnswer = a := by
  simp [State.nextAnswer, h]
theorem State.nextAnswer_nil (s : State) (h : s.answers = []) : s.nextAnswer = Config.freeAnswer s.draws := by
  simp [State.nextAnswer, h]

end Sys2Proof.Machine
end

