-- ==== Sys2Proof/Laws/Step.lean ====
section
/-! SUPPORT. What accepting an input, sending, and a step can do, said once. -/

namespace Sys2Proof.Machine

/-- The four things the rest of SEND can end in, with the transport's answers that lead to each. -/
theorem transmit_cases (a : Answer) (s : State) :
    (a.isOpen = false ∧ transmit a s = s.raise .transportClosed) ∨
    (a.isOpen = true ∧ a.wres = .ok ∧
      transmit a s = { s with trace := s.trace ++ [.flush, .write s.fb.bytes .ok]
                              delivered := s.delivered ++ [s.fb.bytes]
                              st := St.record .sent 0x00#8 s.st }) ∨
    (∃ d, a.isOpen = true ∧ a.wres = .ioError d ∧
      transmit a s = { s with trace := s.trace ++ [.flush, .write s.fb.bytes (.ioError d)]
                              delivered := s.delivered ++ [a.delivered]
                              st := St.record .droppedWriteFailed d s.st }) := by
  obtain ⟨o, w, del⟩ := a
  cases o with
  | false => exact .inl ⟨rfl, rfl⟩
  | true =>
    cases w with
    | ok =>
      refine .inr (.inl ⟨rfl, rfl, ?_⟩)
      simp [transmit, State.emit, State.deliver, State.setSt]
    | ioError d =>
      refine .inr (.inr ⟨d, rfl, rfl, ?_⟩)
      simp [transmit, State.emit, State.deliver, State.setSt, State.raise, Condition.mark]

/-- No command touches the host's remaining inputs. -/
theorem exec_inputs (i : Instr) (s t : State) (h : exec i s = .next t) : t.inputs = s.inputs := by
  cases i with
  | send =>
    simp only [exec, execSend, Host.Outcome.next.injEq] at h
    subst h
    rcases transmit_cases s.nextAnswer (encodeSample s.afterAnswer) with ⟨_, h⟩ | ⟨_, _, h⟩ | ⟨_, _, _, h⟩ <;>
      rw [h] <;> simp [encodeSample]
  | rdFb b =>
    simp only [exec, execRdFb, Host.Outcome.next.injEq] at h
    subst h
    split <;> rfl
  | crcInit => cases h; rfl
  | crcByte b => cases h; rfl
  | crcRd => cases h; rfl
  | ldVx w => cases h; rfl
  | ldVy w => cases h; rfl
  | ldWz w => cases h; rfl
  | enc => cases h; rfl
  | rdSt => cases h; rfl
  | clrSt => cases h; rfl

/-- Everything a step that ends in a next state can have done. -/
theorem step_cases (s t : State) (h : step s = .next t) :
    (s.inputs = [] ∧ t = s) ∨
    (∃ cw rest i, s.inputs = .command cw :: rest ∧ decode cw = .ok i ∧ exec i (s.setInputs rest) = .next t) ∨
    (∃ cw rest e, s.inputs = .command cw :: rest ∧ decode cw = .error e ∧ t = takeIllegal (s.setInputs rest)) ∨
    (∃ rest, s.inputs = .reset :: rest ∧ t = applyReset (s.setInputs rest)) ∨
    (∃ cw rest, s.inputs = .resetDuring cw :: rest ∧ t = resetDuring cw (s.setInputs rest)) := by
  rcases hi : s.inputs with _ | ⟨x, rest⟩
  · have : step s = .next s := by simp [step, accept, hi]
    rw [this] at h; cases h
    exact .inl ⟨rfl, rfl⟩
  · cases x with
    | command cw =>
      rcases hd : decode cw with e | i
      · have : step s = .next (takeIllegal (s.setInputs rest)) := by simp [step, accept, hi, hd]
        rw [this] at h; cases h
        exact .inr (.inr (.inl ⟨cw, rest, e, rfl, hd, rfl⟩))
      · have : step s = exec i (s.setInputs rest) := by simp [step, accept, hi, hd]
        exact .inr (.inl ⟨cw, rest, i, rfl, hd, this ▸ h⟩)
    | reset =>
      have : step s = .next (applyReset (s.setInputs rest)) := by simp [step, accept, hi]
      rw [this] at h; cases h
      exact .inr (.inr (.inr (.inl ⟨rest, rfl, rfl⟩)))
    | resetDuring cw =>
      have : step s = .next (resetDuring cw (s.setInputs rest)) := by simp [step, accept, hi]
      rw [this] at h; cases h
      exact .inr (.inr (.inr (.inr ⟨cw, rest, rfl, rfl⟩)))

/-- A reset during a command ends in the reset values, with the transport's side of an abandoned SEND left as it is. -/
theorem resetDuring_eq (cw : CmdWord) (s : State) :
    ∃ u : State, resetDuring cw s = applyReset u ∧ u.inputs = s.inputs ∧ u.rsps = s.rsps := by
  unfold resetDuring
  split
  · refine ⟨_, rfl, ?_, ?_⟩ <;> split <;> simp
  · exact ⟨s, rfl, rfl, rfl⟩

end Sys2Proof.Machine
end

