-- ==== Sys2Proof/Tests/Slice0.lean ====
section
/-! SUPPORT. Tests: expected values from `95_test_vectors.md` (V1 to V13, its programs) and the rules' own examples; and, for each statement
with hypotheses, a named witness that meets them. -/

namespace Sys2Proof.Tests

open Sys2Proof Sys2Proof.Machine

/-- The outcome is a next state with the property. -/
def after (o : Host.Outcome State Fault Refusal) (p : State → Bool) : Bool :=
  match o with
  | .next t => p t
  | .fault _ => false
  | .refused _ => false

/-- The reset state with the sample of V5. -/
def v5 : State := { State.reset with vx := 0x3FC00000#32, vy := 0xC0100000#32, wz := 0x3DCCCCCD#32 }

/-- The frame of V5. -/
def v5Frame : List Byte :=
  [0x7A, 0x7B, 0x00, 0x00, 0xC0, 0x3F, 0x00, 0x00, 0x10, 0xC0, 0xCD, 0xCC, 0xCC, 0x3D] ++
  List.replicate 24 0x00 ++ [0x0D, 0xFF, 0x7D]

/-- V5's state with one transport answer listed. -/
def v5With (a : Answer) : State := { v5 with answers := [a] }

/-- The reset state with one input listed. -/
def withInput (x : Input) : State := { State.reset with inputs := [x] }

/-! ### Well-formed lines: each check refuses an ill-formed one -/

theorem test_wf_refuses_missing_operand : SourceLine.wf ⟨.command .crcByte, []⟩ = false := by decide
theorem test_wf_refuses_extra_operand : SourceLine.wf ⟨.command .enc, [0]⟩ = false := by decide
theorem test_wf_refuses_byte_256 : SourceLine.wf ⟨.command .rdFb, [256]⟩ = false := by decide
theorem test_wf_refuses_word_2_pow_32 : SourceLine.wf ⟨.onsample, [0, 0, 0x100000000]⟩ = false := by decide
theorem test_wf_accepts_limits : SourceLine.wf ⟨.command .rdFb, [255]⟩ && SourceLine.wf ⟨.command .ldVx, [0xFFFFFFFF]⟩ = true := by
  decide

/-! ### Decoding: the words of the opcode table's encoding column, written out bit by bit -/

theorem test_decode_crcInit : decode 0b0000000100000000000000000000000000000000#40 = .ok .crcInit := by decide
theorem test_decode_crcByte : decode 0b0000001000000000000000000000000000110001#40 = .ok (.crcByte 0x31#8) := by decide
theorem test_decode_crcRd : decode 0b0000001100000000000000000000000000000000#40 = .ok .crcRd := by decide
theorem test_decode_ldVx : decode 0b0001000000111111110000000000000000000000#40 = .ok (.ldVx 0x3FC00000#32) := by decide
theorem test_decode_ldVy : decode 0b0001000111000000000100000000000000000000#40 = .ok (.ldVy 0xC0100000#32) := by decide
theorem test_decode_ldWz : decode 0b0001001000111101110011001100110011001101#40 = .ok (.ldWz 0x3DCCCCCD#32) := by decide
theorem test_decode_enc : decode 0b0001100000000000000000000000000000000000#40 = .ok .enc := by decide
theorem test_decode_rdFb : decode 0b0001100100000000000000000000000000101001#40 = .ok (.rdFb 41#8) := by decide
theorem test_decode_send : decode 0b0010000000000000000000000000000000000000#40 = .ok .send := by decide
theorem test_decode_rdSt : decode 0b0011000000000000000000000000000000000000#40 = .ok .rdSt := by decide
theorem test_decode_clrSt : decode 0b0011000100000000000000000000000000000000#40 = .ok .clrSt := by decide

/-- V10: the nearest illegal words, each refused by name. -/
theorem test_decode_illegal :
    decode 0x0100000001#40 = .error (.mustBeZero 0x00000001#32) ∧ decode 0x0200000100#40 = .error (.mustBeZero 0x00000100#32) ∧
    decode 0x0400000000#40 = .error (.noSuchOpcode 0x04#8) ∧ decode 0x1300000000#40 = .error (.noSuchOpcode 0x13#8) ∧
    decode 0x1800000001#40 = .error (.mustBeZero 0x00000001#32) ∧ decode 0x1900000129#40 = .error (.mustBeZero 0x00000129#32) ∧
    decode 0x2100000000#40 = .error (.noSuchOpcode 0x21#8) ∧ decode 0x3200000000#40 = .error (.noSuchOpcode 0x32#8) ∧
    decode 0x0000000000#40 = .error (.noSuchOpcode 0x00#8) ∧ decode 0xFFFFFFFFFF#40 = .error (.noSuchOpcode 0xFF#8) := by
  decide

theorem test_decodeTableWord : decodeTableWord 40 0x19000000FF = some (.rdFb 0xFF#8) ∧ decodeTableWord 40 0x2000000001 = none := by
  decide

/-! ### The assembler: lines of R54 and R55 -/

theorem test_assemble_word_operand : assembleText "LD.VX 0x3FC00000    ; 0x103FC00000" = .ok [0x103FC00000#40] := by decide +kernel
theorem test_assemble_decimal_operand : assembleText "RD.FB 38" = .ok [0x1900000026#40] := by decide +kernel
theorem test_assemble_pseudo :
    assembleText "CRC16 0x31, 0x32" = .ok [0x0100000000#40, 0x0200000031#40, 0x0200000032#40, 0x0300000000#40] ∧
    assembleText "ENCODE 1, 2, 3" = .ok [0x1000000001#40, 0x1100000002#40, 0x1200000003#40, 0x1800000000#40] := by decide +kernel
theorem test_assemble_rejects :
    assembleText "RD.FB 256" = .error .operandRange ∧ assembleText "ENC 0" = .error .operandCount ∧
    assembleText "CRC.BYTE 0xZZ" = .error .badLiteral ∧ assembleText "JMP 0" = .error .unknownMnemonic ∧
    assembleText "  ; a comment" = .ok [] := by decide +kernel

/-! ### The CRC unit (V1 to V3) -/

theorem test_crcBit_rows : (crcBit 0x0001#16 = 0xA001#16 ∧ crcBit 0x8000#16 = 0x4000#16) ∧
    crcBit 0xFFFF#16 = 0xDFFE#16 ∧ crcBit 0x4002#16 = 0x2001#16 := by decide
theorem test_crcByte_rows : crcByte 0x0000#16 0x01#8 = 0xC0C1#16 ∧ crcByte 0xFFFF#16 0x00#8 = 0x40BF#16 ∧
    crcByte 0xFFFF#16 0xFF#8 = 0x00FF#16 ∧ crcByte 0x1234#16 0x56#8 = 0xE993#16 := by decide +kernel
theorem test_crc16_modbus_request : crc16 [0x01#8, 0x03#8, 0x00#8, 0x00#8, 0x00#8, 0x0A#8] = 0xCDC5#16 := by decide +kernel

theorem test_crcInit : after (exec .crcInit { State.reset with crcAcc := 0x1234#16 }) (fun t => t.crcAcc == 0xFFFF#16) = true := by
  decide
theorem test_crcByte : after (exec (.crcByte 0x32#8) { State.reset with crcAcc := 0x1040#16 }) (fun t => t.crcAcc == 0x2590#16) = true := by
  decide +kernel
theorem test_crcRd : after (exec .crcRd { State.reset with crcAcc := 0x4B37#16, rsps := [1#32] })
    (fun t => t.rsps == [1#32, 0x00004B37#32] && t.crcAcc == 0x4B37#16) = true := by decide

/-! ### The serializer (V4 to V8, V11) -/

theorem test_ldVx : after (exec (.ldVx 0x80000000#32) v5) (fun t => t.vx == 0x80000000#32 && t.vy == 0xC0100000#32) = true := by decide
theorem test_ldVy : after (exec (.ldVy 0x7FA00001#32) v5) (fun t => t.vy == 0x7FA00001#32 && t.wz == 0x3DCCCCCD#32) = true := by decide
theorem test_ldWz : after (exec (.ldWz 0xFFFFFFFF#32) v5) (fun t => t.wz == 0xFFFFFFFF#32 && t.vx == 0x3FC00000#32) = true := by decide

theorem test_enc_v5 : after (exec .enc v5)
    (fun t => t.fb.bytes == v5Frame && t.crcAcc == 0xFF0D#16 && t.st == 0x00000004#32) = true := by decide +kernel
/-- V8: a buffer full of another frame's bytes leaves nothing behind. -/
theorem test_enc_overwrites : after (exec .enc { State.reset with fb := (List.range 41).map (fun k => (k, 0xFF#8)) })
    (fun t => (t.fb.bytes.drop 2).take 12 == List.replicate 12 0x00#8 && (t.fb.bytes.drop 38) == [0x40#8, 0x10#8, 0x7D#8]) = true := by
  decide +kernel
/-- V7, third row: the byte order. -/
theorem test_frame_byte_order : ((frame 0x04030201#32 0x08070605#32 0x0C0B0A09#32).drop 2).take 12 =
    [1#8, 2#8, 3#8, 4#8, 5#8, 6#8, 7#8, 8#8, 9#8, 10#8, 11#8, 12#8] ∧
    cks 0x04030201#32 0x08070605#32 0x0C0B0A09#32 = 0x5826#16 := by decide +kernel
/-- V7, fourth row: sentinel values inside the payload are not escaped (`70_reset_and_hazards.md` R131). -/
theorem test_frame_sentinels : ((frame 0x7D7B7A00#32 0#32 0#32).drop 2).take 4 = [0x00#8, 0x7A#8, 0x7B#8, 0x7D#8] ∧
    cks 0x7D7B7A00#32 0#32 0#32 = 0x60AD#16 := by decide +kernel

theorem test_rdFb_last_index : after (exec (.rdFb 40#8) { State.reset with fb := [(40, 0x7D#8)] })
    (fun t => t.rsps == [0x0000007D#32] && t.st == 0#32) = true := by decide
theorem test_rdFb_first_out_of_range : after (exec (.rdFb 41#8) State.reset)
    (fun t => t.rsps == [] && t.st == 0x00000010#32) = true := by decide

/-! ### The output stage (V12) -/

theorem test_send_ok : after (exec .send (v5With ⟨true, .ok, []⟩))
    (fun t => t.st == 0x00000005#32 && t.trace == [.flush, .write v5Frame .ok] && t.crcAcc == 0xFF0D#16 && t.answers == []) = true := by
  decide +kernel
theorem test_send_failed_and_closed :
    after (exec .send (v5With ⟨true, .ioError 0x2A#8, [0x7A#8]⟩))
      (fun t => t.st == 0x00002A07#32 && t.trace == [.flush, .write v5Frame (.ioError 0x2A#8)] && t.delivered == [[0x7A#8]]) &&
    after (exec .send (v5With ⟨false, .ok, []⟩)) (fun t => t.st == 0x00000006#32 && t.trace == [] && t.fb.bytes == v5Frame) = true := by
  decide +kernel

/-! ### The status register (V13) -/

theorem test_rdSt : after (exec .rdSt { State.reset with st := 0x00002A1F#32 })
    (fun t => t.rsps == [0x00002A1F#32] && t.st == 0x00002A1F#32) = true := by decide
theorem test_clrSt : after (exec .clrSt { State.reset with st := 0x00002A1F#32 }) (fun t => t.st == 0x00000004#32) = true := by decide

/-! ### Steps -/

theorem test_step_illegal_word : after (step (State.reset.withFetchWord 40 0x1800000001))
    (fun t => t.st == 0x00000008#32 && t.fb == [] && t.inputs == []) = true := by decide
theorem test_step_runs_fetch_word : after (step (State.reset.withFetchWord 40 0x103FC00000)) (fun t => t.vx == 0x3FC00000#32) = true := by
  decide
/-- With no answer listed a SEND still goes to a next state: the answer is a free one. -/
theorem test_step_send_after_reset : ∃ t, step (State.reset.withFetchWord 40 0x2000000000) = .next t := ⟨_, rfl⟩
theorem test_reset_input : after (step { v5 with inputs := [.reset], st := 0x00002A1F#32 })
    (fun t => t.vx == 0#32 && t.st == 0#32 && t.crcAcc == 0xFFFF#16) = true := by decide

/-! ### Witnesses: states and operands that meet the hypotheses of each statement -/

theorem witness_StepRunsDecodedCommand : ∃ (s : State) (cw : CmdWord) (rest : List Input) (i : Instr), s.inputs = .command cw :: rest ∧ decode cw = .ok i :=
  ⟨withInput (.command 0x0100000000#40), 0x0100000000#40, [], .crcInit, rfl, by decide⟩

/-- One word for each of R51's three ways to be illegal, and the legal words beside them. -/
theorem witness_IllegalWordSetsIllOnly :
    (∀ r ∈ opcodeMap, 0x0400000000#40 &&& r.mask ≠ r.pattern) ∧ (∀ r ∈ opcodeMap, 0x1800000001#40 &&& r.mask ≠ r.pattern) ∧
    (∀ r ∈ opcodeMap, 0x0200000100#40 &&& r.mask ≠ r.pattern) ∧ (∀ r ∈ opcodeMap, 0x1900000129#40 &&& r.mask ≠ r.pattern) ∧
    (∃ r ∈ opcodeMap, 0x02000000FF#40 &&& r.mask = r.pattern) ∧ (∃ r ∈ opcodeMap, 0x1800000000#40 &&& r.mask = r.pattern) ∧
    ∃ (s : State) (rest : List Input), s.inputs = .command 0x0400000000#40 :: rest :=
  ⟨by decide, by decide, by decide, by decide, by decide, by decide, withInput (.command 0x0400000000#40), [], rfl⟩

theorem witness_OpcodeMapSelectsCommand :
    0x0100000000#40 &&& 0xFFFFFFFFFF#40 = 0x0100000000#40 ∧ 0x02000000FF#40 &&& 0xFFFFFFFF00#40 = 0x0200000000#40 ∧
    0x0300000000#40 &&& 0xFFFFFFFFFF#40 = 0x0300000000#40 ∧ 0x10FFFFFFFF#40 &&& 0xFF00000000#40 = 0x1000000000#40 ∧
    0x11FFFFFFFF#40 &&& 0xFF00000000#40 = 0x1100000000#40 ∧ 0x12FFFFFFFF#40 &&& 0xFF00000000#40 = 0x1200000000#40 ∧
    0x1800000000#40 &&& 0xFFFFFFFFFF#40 = 0x1800000000#40 ∧ 0x19000000FF#40 &&& 0xFFFFFFFF00#40 = 0x1900000000#40 ∧
    0x2000000000#40 &&& 0xFFFFFFFFFF#40 = 0x2000000000#40 ∧ 0x3000000000#40 &&& 0xFFFFFFFFFF#40 = 0x3000000000#40 ∧
    0x3100000000#40 &&& 0xFFFFFFFFFF#40 = 0x3100000000#40 ∧ ∀ r ∈ opcodeMap, 0x0000000000#40 &&& r.mask ≠ r.pattern := by decide

theorem witness_EncodeOfDecode : ∃ cw i, decode cw = .ok i := ⟨0x19000000FF#40, .rdFb 0xFF#8, by decide⟩

theorem witness_CrcInitSetsAccumulator : ∃ imm : Word, imm ≠ 0#32 := ⟨1#32, by decide⟩

theorem witness_CrcBitStep : ∃ k, k < 16 := ⟨15, by decide⟩

/-- For the statements about a command's next state, and, with an illegal word, a step's: `AccumulatorWriters`,
`SampleRegisterWriters`, `ResponsesOfCommands`, `TraceWriters`, `BufferWriters`, `StatusIsOnlyReport`. -/
theorem witness_command_and_illegal_word :
    (∀ i ∈ [Instr.crcInit, .crcByte 0xFF#8, .crcRd, .ldVx 1#32, .ldVy 1#32, .ldWz 1#32, .enc, .rdFb 40#8, .rdFb 41#8, .send, .rdSt,
      .clrSt], ∃ t, exec i State.reset = .next t) ∧
    ∃ (s t : State) (cw : CmdWord) (rest : List Input), s.inputs = .command cw :: rest ∧ legalWord cw = false ∧ step s = .next t := by
  refine ⟨fun i _ => by cases i <;> exact ⟨_, rfl⟩, withInput (.command 0x1900000129#40), ?_⟩
  exact ⟨_, 0x1900000129#40, [], rfl, by decide, rfl⟩

theorem witness_CrcRdRespondsAccumulator : ∃ s t t', exec .enc s = .next t ∧ exec .send s = .next t' := ⟨v5, _, _, rfl, rfl⟩

theorem witness_CrcCallRespondsChecksum : ∃ (bs : List Byte) (s : State) (rest : List Input),
    s.inputs = (crc16Expansion bs).map (fun i => Input.command (encode i)) ++ rest :=
  ⟨[0x31#8], { State.reset with inputs := [.command 0x0100000000#40, .command 0x0200000031#40, .command 0x0300000000#40, .reset] },
    [.reset], by decide⟩

theorem witness_FrameDeterminesSample : ∃ x y z x' y' z' : Word,
    ((frame x y z).drop 2).take 12 = ((frame x' y' z').drop 2).take 12 := ⟨0, 1, 2, 0, 1, 2, rfl⟩

theorem witness_EncBuildsFrame : ∃ s t, s.fb.wf = true ∧ exec .enc s = .next t := ⟨v5, _, rfl, rfl⟩

/-- Two canonical buffers, one of them not empty, for `EncForgetsOldBuffer`, `FieldStoresMakeFrame`, `CanonicalBuffersEqual`. -/
theorem witness_canonical_buffers : ∃ m m' : Memory, m.wf = true ∧ m'.wf = true ∧ m.bytes = m'.bytes ∧ m ≠ [] :=
  ⟨[(0, 0x7A#8), (40, 0x7D#8)], [(0, 0x7A#8), (40, 0x7D#8)], by decide, by decide, rfl, by decide⟩

/-- For `FieldsAreLittleEndian` and `FieldsReadBack`, with the last byte of each range. -/
theorem witness_FieldsAreLittleEndian :
    (∃ s t, exec .enc s = .next t ∨ exec .send s = .next t) ∧ (∃ k, k < 4 ∧ k = 3) ∧ ∃ k, k < 24 ∧ k = 23 :=
  ⟨⟨v5, _, .inl rfl⟩, ⟨3, by decide⟩, ⟨23, by decide⟩⟩

/-- Both clauses at the values where they meet, and at the ends of the range. -/
theorem witness_RdFbReadsByteOrFlagsRange :
    (∃ b : Byte, b.toNat ≤ 40 ∧ b = 40#8) ∧ (∃ b : Byte, 41 ≤ b.toNat ∧ b = 41#8) ∧
    (∃ b : Byte, b.toNat ≤ 40 ∧ b = 0#8) ∧ ∃ b : Byte, 41 ≤ b.toNat ∧ b = 255#8 :=
  ⟨⟨40#8, by decide⟩, ⟨41#8, by decide⟩, ⟨0#8, by decide⟩, ⟨255#8, by decide⟩⟩

/-- The state after ENC meets the invariant. -/
theorem encoded_inv : Inv (encodeSample v5) where
  mem := encodeSample_wf v5 rfl
  reserved := by simp [encodeSample, v5, State.reset]; decide
  detail := by decide
  valid := fun _ => ⟨_, _, _, encodeSample_bytes v5⟩
  fresh := fun h => absurd h (by decide)
  trace := trivial
  sent := fun h => absurd h (by decide)
  failed := fun h => absurd h (by decide)

theorem witness_ValidBufferHoldsFrame : ∃ s a, Inv s ∧ St.fbv s.st = true ∧ 14 ≤ a ∧ a < 38 :=
  ⟨encodeSample v5, 37, encoded_inv, by decide, by decide, by decide⟩

theorem witness_rdFb_before_first_frame : ∃ (s : State) (b : Byte), Inv s ∧ St.fbv s.st = false ∧ b.toNat ≤ 40 :=
  ⟨State.reset, 40#8, ⟨rfl, by decide, by decide, fun h => absurd h (by decide), fun _ => ⟨rfl, by decide, rfl⟩, trivial,
    fun h => absurd h (by decide), fun h => absurd h (by decide)⟩, by decide, by decide⟩

theorem witness_RdStRespondsStatus : ∃ s, Inv s := ⟨encodeSample v5, encoded_inv⟩

theorem witness_StepKeepsInv : ∃ s t, Inv s ∧ step s = .next t := ⟨encodeSample v5, encodeSample v5, encoded_inv, rfl⟩

theorem witness_EncodeExpansionBuildsFrame : ∃ (x y z : Word) (s : State) (rest : List Input),
    s.inputs = (encodeExpansion x y z).map (fun i => Input.command (encode i)) ++ rest :=
  ⟨1#32, 2#32, 3#32, { State.reset with
    inputs := [.command 0x1000000001#40, .command 0x1100000002#40, .command 0x1200000003#40, .command 0x1800000000#40] }, [], by decide⟩

/-- V5's state about to run the words of `ONSAMPLE 1, 2, 3`, with some answers listed. -/
def onsample123 (as : List Answer) : State := { v5 with
  inputs := [.command 0x1000000001#40, .command 0x1100000002#40, .command 0x1200000003#40, .command 0x2000000000#40]
  answers := as }

/-- The transport open with either result, closed, and no answer listed. -/
theorem witness_OnsampleExpansionSendsFrame :
    (∀ as, (onsample123 as).inputs = (onsampleExpansion 1#32 2#32 3#32).map (fun i => Input.command (encode i)) ++ []) ∧
    (∀ a : Answer, ∃ l, (onsample123 [a]).answers = a :: l) ∧
    (∃ a a' a'' : Answer, a.isOpen = true ∧ a.wres = .ok ∧ a'.isOpen = true ∧ a'.wres = .ioError 0xFF#8 ∧ a''.isOpen = false) ∧
    ∃ a, (onsample123 []).answers = [] ∧ a = Config.freeAnswer (onsample123 []).draws :=
  ⟨fun _ => rfl, fun _ => ⟨[], rfl⟩, ⟨⟨true, .ok, []⟩, ⟨true, .ioError 0xFF#8, []⟩, ⟨false, .ok, []⟩, rfl, rfl, rfl, rfl, rfl⟩,
    _, rfl, rfl⟩

/-- For `SendTakesOneAnswer`: an answer listed, of an open and of a closed transport, and none listed. -/
theorem witness_SendTakesOneAnswer :
    (∃ (s : State) (a : Answer) (l : List Answer), s.answers = a :: l ∧ a.isOpen = true) ∧
    (∃ (s : State) (a : Answer) (l : List Answer), s.answers = a :: l ∧ a.isOpen = false) ∧ ∃ s : State, s.answers = [] :=
  ⟨⟨v5With ⟨true, .ok, []⟩, _, _, rfl, rfl⟩, ⟨v5With ⟨false, .ok, []⟩, _, _, rfl, rfl⟩, v5, rfl⟩

/-- For `SendByOutcome`, `SendOutcomeCode`: a state for each of the transport's answers. -/
theorem witness_SendOutcomeCode :
    (∃ s t, exec .send s = .next t ∧ s.nextAnswer.isOpen = true ∧ s.nextAnswer.wres = .ok) ∧
    (∃ s t, exec .send s = .next t ∧ s.nextAnswer.isOpen = true ∧ s.nextAnswer.wres = .ioError 0xFF#8) ∧
    ∃ s t, exec .send s = .next t ∧ s.nextAnswer.isOpen = false :=
  ⟨⟨v5With ⟨true, .ok, []⟩, _, rfl, rfl, rfl⟩, ⟨v5With ⟨true, .ioError 0xFF#8, []⟩, _, rfl, rfl, rfl⟩,
    v5With ⟨false, .ok, []⟩, _, rfl, rfl⟩

theorem witness_SendNeverSuppressed :
    (∃ s : State, s.nextAnswer.isOpen = true) ∧ ∃ s : State, s.nextAnswer.isOpen = false :=
  ⟨⟨v5With ⟨true, .ok, []⟩, rfl⟩, ⟨v5With ⟨false, .ok, []⟩, rfl⟩⟩

theorem witness_TwoSendsWriteTwice :
    ∃ s t u, exec .send s = .next t ∧ exec .send t = .next u ∧ s.nextAnswer.isOpen = true ∧ t.nextAnswer.isOpen = true :=
  ⟨{ v5 with answers := [⟨true, .ok, []⟩, ⟨true, .ioError 1#8, []⟩] }, _, _, rfl, rfl, rfl, rfl⟩

theorem witness_SendIndependentOfHistory : ∃ s s' t t', s.fb.wf = true ∧ s'.fb.wf = true ∧ s.vx = s'.vx ∧ s.vy = s'.vy ∧
    s.wz = s'.wz ∧ s.nextAnswer = s'.nextAnswer ∧ exec .send s = .next t ∧ exec .send s' = .next t' ∧ s.st ≠ s'.st :=
  ⟨v5With ⟨true, .ok, []⟩, { v5With ⟨true, .ok, []⟩ with st := 0x00002A07#32, fb := [(3, 1#8)] }, _, _, rfl, by decide, rfl, rfl, rfl,
    rfl, rfl, rfl, by decide⟩

theorem witness_StickyFlagsStay : ∃ (s t : State) (cw : CmdWord) (rest : List Input), s.inputs = .command cw :: rest ∧ cw ≠ 0x3100000000#40 ∧ step s = .next t ∧
    St.ill s.st = true ∧ St.idx s.st = true :=
  ⟨{ withInput (.command 0x1900000029#40) with st := 0x00000018#32 }, _, 0x1900000029#40, [], rfl, by decide, rfl, by decide, by decide⟩

/-- From nothing on record: an illegal word, an index out of range, and a SEND. -/
theorem witness_OneConditionPerCommand :
    ∀ cw ∈ [0x0000000000#40, 0x1900000029#40, 0x2000000000#40], ∃ s t, s.st &&& 0x0000FF1B#32 = 0#32 ∧ step s = .next t ∧
      s.inputs = [.command cw] := by
  intro cw h
  simp only [List.mem_cons, List.not_mem_nil, or_false] at h
  rcases h with rfl | rfl | rfl
  · exact ⟨withInput (.command 0x0000000000#40), _, by decide, rfl, rfl⟩
  · exact ⟨withInput (.command 0x1900000029#40), _, by decide, rfl, rfl⟩
  · exact ⟨withInput (.command 0x2000000000#40), _, by decide, rfl, rfl⟩

theorem witness_ReadsRepeat : ∃ i s t, (i = .crcRd ∨ i = .rdSt ∨ (∃ b : Byte, b.toNat ≤ 40 ∧ i = .rdFb b)) ∧ exec i s = .next t :=
  ⟨.rdFb 40#8, v5, _, .inr (.inr ⟨40#8, by decide, rfl⟩), rfl⟩

theorem witness_StepTakesOneInput : ∃ (s t : State) (x : Input) (rest : List Input), s.inputs = x :: rest ∧ step s = .next t :=
  ⟨withInput .reset, _, .reset, [], rfl, rfl⟩

theorem witness_IdleBlockKeepsState : ∃ s : State, s.inputs = [] := ⟨v5, rfl⟩

theorem witness_ResetInputRestoresResetState : ∃ (s : State) (rest : List Input), s.inputs = .reset :: rest := ⟨withInput .reset, [], rfl⟩

/-- A reset during a SEND and during another command. -/
theorem witness_ResetAbandonsCommand :
    (∃ (s : State) (rest : List Input), s.inputs = .resetDuring 0x2000000000#40 :: rest) ∧ ∃ (s : State) (cw : CmdWord) (rest : List Input), s.inputs = .resetDuring cw :: rest ∧ cw ≠ 0x2000000000#40 :=
  ⟨⟨withInput (.resetDuring 0x2000000000#40), [], rfl⟩, withInput (.resetDuring 0x1800000000#40), 0x1800000000#40, [], rfl, by decide⟩

theorem witness_CleanStepsAreLegal : ∃ (s t : State) (cw : CmdWord) (rest : List Input), s.inputs = .command cw :: rest ∧ Clean s ∧ step s = .next t :=
  ⟨withInput (.command 0x1900000028#40), _, 0x1900000028#40, [], rfl, ⟨by decide, by decide⟩, rfl⟩

end Sys2Proof.Tests
end

section
/-! PROOFS. Reading multi-byte fields back out of the frame buffer (`00_scope.md` R8, `20_memory.md` R35, R36), and what
ENC and SEND leave in the buffer and the accumulator. -/

namespace Sys2Proof.Machine

/-! ### A multi-byte value and its bytes -/

/-- Bit `i` of a value is bit `i % 8` of its byte `i / 8`. -/
theorem getLsbD_byte {w : Nat} (v : BitVec w) (i : Nat) :
    (v.extractLsb' (8 * (i / 8)) 8).getLsbD (i % 8) = v.getLsbD i := by
  rw [BitVec.getLsbD_extractLsb', Nat.div_add_mod, decide_eq_true (Nat.mod_lt i (by decide)), Bool.true_and]

theorem leBytes_injective (n : Nat) : Function.Injective (leBytes n) := by
  intro u v h
  apply BitVec.eq_of_getLsbD_eq
  intro i hi
  have hk : i / 8 < n := by omega
  have hbyte : u.extractLsb' (8 * (i / 8)) 8 = v.extractLsb' (8 * (i / 8)) 8 := by
    simpa [leBytes, hk] using congrArg (·[i / 8]?) h
  rw [← getLsbD_byte u, ← getLsbD_byte v, hbyte]

/-- The bytes of a `MemRead` are a slice of the buffer. -/
theorem Memory.leBytes_memRead (m : Memory) (a n : Nat) (h : a + n ≤ 41) :
    leBytes n (m.memRead a n) = (m.bytes.drop a).take n := by
  apply List.ext_getElem
  · rw [length_leBytes, List.length_take, List.length_drop, Memory.length_bytes]; omega
  · intro k hk _
    rw [length_leBytes] at hk
    rw [getElem_leBytes, Memory.byte_memRead m a n k hk, List.getElem_take, List.getElem_drop, Memory.getElem_bytes]

theorem Memory.memRead_eq_of_slice (m : Memory) (a n : Nat) (v : BitVec (8 * n)) (h : a + n ≤ 41)
    (hs : (m.bytes.drop a).take n = leBytes n v) : m.memRead a n = v :=
  leBytes_injective n ((m.leBytes_memRead a n h).trans hs)

/-! ### The fields of a frame -/

/-- A buffer that holds `frame(x, y, z)` reads back as the sample, three zero poses and the checksum. -/
theorem Memory.memRead_fields (m : Memory) (x y z : Word) (h : m.bytes = frame x y z) :
    m.memRead 2 4 = x ∧ m.memRead 6 4 = y ∧ m.memRead 10 4 = z ∧
    m.memRead 14 8 = 0#64 ∧ m.memRead 22 8 = 0#64 ∧ m.memRead 30 8 = 0#64 ∧ m.memRead 38 2 = cks x y z := by
  have field (a n : Nat) (v : BitVec (8 * n)) (ha : a + n ≤ 41) (hs : ((frame x y z).drop a).take n = leBytes n v) :
      m.memRead a n = v := m.memRead_eq_of_slice a n v ha (h ▸ hs)
  exact ⟨field 2 4 x (by decide) rfl, field 6 4 y (by decide) rfl, field 10 4 z (by decide) rfl,
    field 14 8 0#64 (by decide) rfl, field 22 8 0#64 (by decide) rfl, field 30 8 0#64 (by decide) rfl,
    field 38 2 (cks x y z) (by decide) rfl⟩

/-! ### ENC and SEND -/

@[simp] theorem encodeSample_fb (s : State) :
    (encodeSample s).fb = s.fb.writeBytes 0 (frame s.vx s.vy s.wz) := rfl

@[simp] theorem encodeSample_crcAcc (s : State) : (encodeSample s).crcAcc = cks s.vx s.vy s.wz := rfl

@[simp] theorem transmit_fb (a : Answer) (s : State) : (transmit a s).fb = s.fb := by
  rcases transmit_cases a s with ⟨_, h⟩ | ⟨_, _, h⟩ | ⟨_, _, _, h⟩ <;> simp [h]

@[simp] theorem transmit_crcAcc (a : Answer) (s : State) : (transmit a s).crcAcc = s.crcAcc := by
  rcases transmit_cases a s with ⟨_, h⟩ | ⟨_, _, h⟩ | ⟨_, _, _, h⟩ <;> simp [h]

/-- Whatever the transport answers, SEND leaves in the buffer and the accumulator what ENC leaves there. -/
theorem exec_enc_or_send_encodes (s t : State) (h : exec .enc s = .next t ∨ exec .send s = .next t) :
    t.fb = (encodeSample s).fb ∧ t.crcAcc = (encodeSample s).crcAcc := by
  rcases h with h | h
  · cases h
    exact ⟨rfl, rfl⟩
  · cases h
    simp

/-- Settles O29: the buffer holds the frame of the sample after both commands, and each field is a slice of the frame. -/
theorem fieldsReadBack : Obligations.FieldsReadBack := by
  unfold Obligations.FieldsReadBack
  intro s t h
  obtain ⟨hfb, hcrc⟩ := exec_enc_or_send_encodes s t h
  rw [hfb, hcrc]
  exact Memory.memRead_fields _ _ _ _ (encodeSample_bytes s)

end Sys2Proof.Machine
end

section
/-! PROOFS. The state (`10_state.md`): what a command leaves in each register, the buffer, the status and the queue of inputs;
the canonical buffer; and the invariant of `Safety.lean`, at reset and after every step. -/

namespace Sys2Proof.Machine

/-! ### The state a command ends in -/

/-- The state RD.FB ends in (`42_serializer.md` R82). -/
def readFb (b : Byte) (s : State) : State :=
  match s.fb.byte? (frameIndex b) with
  | some v => s.respond (byteResponse v)
  | none => s.raise .indexRange

/-- The state a command ends in: no command faults or is refused (`60_exceptions.md` R115). -/
def execState (i : Instr) (s : State) : State :=
  match i with
  | .crcInit => s.setCrcAcc Config.CRC_INIT
  | .crcByte b => s.setCrcAcc (crcByte s.crcAcc b)
  | .crcRd => s.respond (crcResponse s.crcAcc)
  | .ldVx w => s.setVx w
  | .ldVy w => s.setVy w
  | .ldWz w => s.setWz w
  | .enc => encodeSample s
  | .rdFb b => readFb b s
  | .send => transmit s.nextAnswer (encodeSample s.afterAnswer)
  | .rdSt => s.respond s.st
  | .clrSt => s.setSt (St.clear s.st)

theorem exec_eq_next (i : Instr) (s : State) : exec i s = .next (execState i s) := by
  cases i <;> rfl

theorem eq_execState {i : Instr} {s t : State} (h : exec i s = .next t) : t = execState i s := by
  rw [exec_eq_next] at h
  cases h
  rfl

/-- RD.FB responds or raises IndexRange, and does nothing else. -/
theorem readFb_cases (b : Byte) (s : State) :
    (∃ v, readFb b s = s.respond v) ∨ readFb b s = s.raise .indexRange := by
  unfold readFb
  split
  · exact .inl ⟨_, rfl⟩
  · exact .inr rfl

/-! ### Steps -/

theorem step_command {s : State} {cw : CmdWord} {rest : List Input} {i : Instr} (hs : s.inputs = .command cw :: rest)
    (hd : decode cw = .ok i) : step s = exec i (s.setInputs rest) := by
  simp [step, accept, hs, hd]

/-- A word the decoder accepts is legal in the words of R51. -/
theorem legalWord_of_decode {cw : CmdWord} {i : Instr} (h : decode cw = .ok i) : legalWord cw = true := by
  obtain ⟨o, hop, himm, -⟩ := (Sys2Proof.Laws.decode_ok_iff cw i).mp h
  have hfind : Opcode.all.find? (·.byte == o.byte) = some o := by cases o <;> rfl
  simpa [legalWord, hop, hfind] using himm

theorem step_illegal {s : State} {cw : CmdWord} {rest : List Input} (hs : s.inputs = .command cw :: rest)
    (hl : legalWord cw = false) : step s = .next (takeIllegal (s.setInputs rest)) := by
  rcases hd : decode cw with e | i
  · simp [step, accept, hs, hd]
  · simp [legalWord_of_decode hd] at hl

/-- Settles O1: accepting a word that decodes runs the command. -/
theorem stepRunsDecodedCommand : Obligations.StepRunsDecodedCommand :=
  fun _ _ _ _ hs hd => step_command hs hd

/-- Settles O52: no command, no recorded illegal word and no reset touches what is left of the queue. -/
theorem stepTakesOneInput : Obligations.StepTakesOneInput := by
  intro s t x rest hs h
  rcases step_cases s t h with ⟨hi, _⟩ | ⟨_, _, i, hi, _, he⟩ | ⟨_, _, _, hi, _, rfl⟩ | ⟨_, hi, rfl⟩ | ⟨cw, _, hi, rfl⟩ <;>
    rw [hs] at hi <;> cases hi
  · exact exec_inputs i _ t he
  · rfl
  · rfl
  · obtain ⟨u, hu, hin, -⟩ := resetDuring_eq cw (s.setInputs rest)
    rw [hu]
    exact hin

/-! ### Encoding and transmitting: what they leave alone -/

@[simp] theorem encodeSample_sample (s : State) :
    (encodeSample s).vx = s.vx ∧ (encodeSample s).vy = s.vy ∧ (encodeSample s).wz = s.wz := ⟨rfl, rfl, rfl⟩

@[simp] theorem encodeSample_st (s : State) : (encodeSample s).st = St.setFbv s.st := rfl

@[simp] theorem encodeSample_trace (s : State) : (encodeSample s).trace = s.trace := rfl

@[simp] theorem transmit_sample (a : Answer) (s : State) :
    (transmit a s).vx = s.vx ∧ (transmit a s).vy = s.vy ∧ (transmit a s).wz = s.wz := by
  rcases transmit_cases a s with ⟨_, h⟩ | ⟨_, _, h⟩ | ⟨_, _, _, h⟩ <;> simp [h]

@[simp] theorem fbv_transmit (a : Answer) (s : State) : St.fbv (transmit a s).st = St.fbv s.st := by
  rcases transmit_cases a s with ⟨_, h⟩ | ⟨_, _, h⟩ | ⟨_, _, _, h⟩ <;> simp [h, Condition.mark]

/-! ### The fields of `ST` after CLR.ST -/

@[simp] theorem St.outcome_clear (st : Word) : St.outcome (St.clear st) = 0#2 := by
  simp [St.clear, SendOutcome.code]
@[simp] theorem St.fbv_clear (st : Word) : St.fbv (St.clear st) = St.fbv st := by simp [St.clear]
@[simp] theorem St.detail_clear (st : Word) : St.detail (St.clear st) = 0x00#8 := by simp [St.clear]
@[simp] theorem St.reserved_clear (st : Word) : St.reserved (St.clear st) = St.reserved st := by simp [St.clear]

/-! ### Who writes the accumulator, the sample registers and the buffer -/

/-- Settles O20: RD.FB ends by its two cases, SEND keeps the accumulator its encode wrote, the others show theirs. -/
theorem accumulatorWriters : Obligations.AccumulatorWriters := by
  refine ⟨fun i s t h => ?_, fun s t cw rest hs hl h => ?_⟩
  · obtain rfl := eq_execState h
    cases i with
    | rdFb b => rcases readFb_cases b s with ⟨_, hr⟩ | hr <;> simp [execState, hr]
    | send => simp [execState]
    | crcInit | crcByte | crcRd | ldVx | ldVy | ldWz | enc | rdSt | clrSt => rfl
  · rw [step_illegal hs hl] at h
    cases h
    rfl

/-- Settles O23: the loads are told apart by their constructor; no other command's state writes a sample register. -/
theorem sampleRegisterWriters : Obligations.SampleRegisterWriters := by
  refine ⟨fun i s t h => ?_, fun s t cw rest hs hl h => ?_⟩
  · obtain rfl := eq_execState h
    cases i with
    | ldVx | ldVy | ldWz => simp [execState]
    | rdFb b => rcases readFb_cases b s with ⟨_, hr⟩ | hr <;> simp [execState, hr]
    | send => simp [execState]
    | crcInit | crcByte | crcRd | enc | rdSt | clrSt => exact ⟨fun _ => rfl, fun _ => rfl, fun _ => rfl⟩
  · rw [step_illegal hs hl] at h
    cases h
    exact ⟨rfl, rfl, rfl⟩

/-- Settles O33: of the other commands RD.FB and CLR.ST alone write `ST`, and neither its `FBV`. -/
theorem bufferWriters : Obligations.BufferWriters := by
  intro i s t h
  obtain rfl := eq_execState h
  cases i with
  | enc | send => simp [execState]
  | rdFb b => rcases readFb_cases b s with ⟨_, hr⟩ | hr <;> simp [execState, hr, Condition.mark]
  | clrSt => simp [execState]
  | crcInit | crcByte | crcRd | ldVx | ldVy | ldWz | rdSt => simp [execState]

/-! ### A command does not read the status -/

theorem State.afterAnswer_setSt (s : State) (v : Word) : (s.setSt v).afterAnswer = s.afterAnswer.setSt v := by
  unfold State.afterAnswer
  rw [State.setSt_answers]
  split <;> rfl

theorem readFb_setSt (b : Byte) (s : State) (v : Word) : ∃ v', readFb b (s.setSt v) = (readFb b s).setSt v' := by
  unfold readFb
  rw [State.setSt_fb]
  split
  · exact ⟨v, rfl⟩
  · exact ⟨Condition.indexRange.mark v, rfl⟩

theorem transmit_setSt (a : Answer) (s : State) (v : Word) : ∃ v', transmit a (s.setSt v) = (transmit a s).setSt v' := by
  obtain ⟨_ | _, _ | d, del⟩ := a
  · exact ⟨Condition.transportClosed.mark v, rfl⟩
  · exact ⟨Condition.transportClosed.mark v, rfl⟩
  · exact ⟨St.record .sent 0x00#8 v, rfl⟩
  · exact ⟨(Condition.writeFailed d).mark v, rfl⟩

/-- Settles O48: each command computes the same from any `ST`; SEND's draw, its encode and its transmit are taken in turn. -/
theorem statusIsOnlyReport : Obligations.StatusIsOnlyReport := by
  intro i s t v h
  obtain rfl := eq_execState h
  cases i with
  | rdFb b =>
    obtain ⟨v', hv⟩ := readFb_setSt b s v
    exact ⟨v', (exec_eq_next _ _).trans (congrArg _ hv)⟩
  | send =>
    obtain ⟨v', hv⟩ := transmit_setSt s.nextAnswer (encodeSample s.afterAnswer) (St.setFbv v)
    refine ⟨v', (exec_eq_next _ _).trans (congrArg _ ?_)⟩
    calc execState .send (s.setSt v)
        = transmit s.nextAnswer (encodeSample (s.setSt v).afterAnswer) := rfl
      _ = transmit s.nextAnswer ((encodeSample s.afterAnswer).setSt (St.setFbv v)) := by
          rw [State.afterAnswer_setSt]; rfl
      _ = (execState .send s).setSt v' := hv
  | enc => exact ⟨St.setFbv v, rfl⟩
  | clrSt => exact ⟨St.clear v, rfl⟩
  | crcInit | crcByte | crcRd | ldVx | ldVy | ldWz | rdSt => exact ⟨v, rfl⟩

/-! ### The canonical buffer -/

theorem Memory.wfFrom_cons_iff (lo k : Nat) (v : Byte) (m : Memory) :
    Memory.wfFrom lo ((k, v) :: m) = true ↔ lo ≤ k ∧ k < 41 ∧ v ≠ Config.FB_RESET ∧ Memory.wfFrom (k + 1) m = true := by
  simp only [Memory.wfFrom, Bool.and_eq_true, decide_eq_true_eq, bne_iff_ne, and_assoc]
  rfl

@[simp] theorem Memory.read_head (k : Nat) (v : Byte) (m : Memory) : Memory.read ((k, v) :: m) k = v := by
  simp [Memory.read]

/-- The first listed index of a canonical buffer is the first index that does not read as the reset byte. -/
theorem Memory.head_le_of_read_ne {lo k j : Nat} {v : Byte} {m : Memory} (h : Memory.wfFrom lo ((k, v) :: m) = true)
    (hj : Memory.read ((k, v) :: m) j ≠ Config.FB_RESET) : k ≤ j := by
  obtain ⟨-, hk, hv, hm⟩ := (Memory.wfFrom_cons_iff lo k v m).mp h
  by_contra hlt
  exact hj (Memory.read_below _ k j ((Memory.wfFrom_cons_iff k k v m).mpr ⟨le_rfl, hk, hv, hm⟩) (by omega))

/-- Canonical buffers that read alike list the same cells: the first cells agree, and behind them the rests read alike. -/
theorem Memory.eq_of_read_eq (m m' : Memory) (lo lo' : Nat) (h : Memory.wfFrom lo m = true)
    (h' : Memory.wfFrom lo' m' = true) (hread : ∀ a < 41, m.read a = m'.read a) : m = m' := by
  induction m generalizing m' lo lo' with
  | nil =>
    cases m' with
    | nil => rfl
    | cons c' t' =>
      obtain ⟨-, hk, hv, -⟩ := (Memory.wfFrom_cons_iff lo' c'.1 c'.2 t').mp h'
      exact absurd ((Memory.read_head c'.1 c'.2 t').symm.trans (hread c'.1 hk).symm) hv
  | cons c t ih =>
    obtain ⟨k, v⟩ := c
    obtain ⟨-, hk, hv, ht⟩ := (Memory.wfFrom_cons_iff lo k v t).mp h
    cases m' with
    | nil => exact absurd ((Memory.read_head k v t).symm.trans (hread k hk)) hv
    | cons c' t' =>
      obtain ⟨k', v'⟩ := c'
      obtain ⟨-, hk', hv', ht'⟩ := (Memory.wfFrom_cons_iff lo' k' v' t').mp h'
      have hle : k ≤ k' := Memory.head_le_of_read_ne h (by rw [hread k' hk', Memory.read_head]; exact hv')
      have hge : k' ≤ k := Memory.head_le_of_read_ne h' (by rw [← hread k hk, Memory.read_head]; exact hv)
      obtain rfl := Nat.le_antisymm hle hge
      have hvv : v = v' := by simpa using hread k hk
      have hrest : t = t' := ih t' (k + 1) (k + 1) ht ht' fun a ha => by
        by_cases hak : k = a
        · rw [Memory.read_below t (k + 1) a ht (by omega), Memory.read_below t' (k + 1) a ht' (by omega)]
        · simpa [Memory.read, hak] using hread a ha
      rw [hvv, hrest]

/-- Settles O34: byte `a` of the 41 is what index `a` reads. -/
theorem canonicalBuffersEqual : Obligations.CanonicalBuffersEqual := by
  intro m m' h h' hb
  refine Memory.eq_of_read_eq m m' 0 0 h h' fun a ha => ?_
  rw [← Memory.getElem_bytes m a (by simpa using ha), ← Memory.getElem_bytes m' a (by simpa using ha)]
  simp only [hb]

/-! ### Traces -/

/-- A flush and the write of a frame extend a well-shaped trace. -/
theorem TraceOk.append_write {l : List Event} {bs : List Byte} (r : WriteResult) (hl : TraceOk l) (hbs : IsFrame bs) :
    TraceOk (l ++ [.flush, .write bs r]) := by
  fun_induction TraceOk l with
  | case1 => exact ⟨hbs, trivial⟩
  | case2 bs' r' l ih =>
    obtain ⟨hframe, hl⟩ := hl
    exact ⟨hframe, ih hl⟩
  | case3 => exact hl.elim

theorem lastWrite_append (l : List Event) (bs : List Byte) (r : WriteResult) :
    LastWrite (l ++ [.flush, .write bs r]) r := ⟨bs, by simp⟩

/-! ### The invariant -/

/-- Settles O54: every value is read off the reset state. -/
theorem resetValues : Obligations.ResetValues :=
  ⟨rfl, rfl, rfl, rfl, fun _ _ => rfl, rfl, rfl, rfl, rfl, rfl, rfl, rfl⟩

theorem reset_inv : Inv State.reset where
  mem := Memory.empty_wf
  reserved := rfl
  detail _ := rfl
  valid h := absurd h (by decide)
  fresh _ := ⟨rfl, rfl, rfl⟩
  trace := trivial
  sent h := absurd h (by decide)
  failed h := absurd h (by decide)

/-- Settles O57: the reset state has an empty buffer, an empty trace and `ST` = 0. -/
theorem invAtReset : Obligations.InvAtReset := reset_inv

/-- The invariant speaks of the buffer, the trace and four fields of `ST` only. -/
theorem Inv.of_fields_eq {s t : State} (hs : Inv s) (hfb : t.fb = s.fb) (htrace : t.trace = s.trace)
    (hout : St.outcome t.st = St.outcome s.st) (hfbv : St.fbv t.st = St.fbv s.st)
    (hdet : St.detail t.st = St.detail s.st) (hres : St.reserved t.st = St.reserved s.st) : Inv t where
  mem := hfb ▸ hs.mem
  reserved := hres.trans hs.reserved
  detail := by rw [hout, hdet]; exact hs.detail
  valid := by rw [hfbv, hfb]; exact hs.valid
  fresh := by rw [hfbv, hfb, hout, htrace]; exact hs.fresh
  trace := htrace ▸ hs.trace
  sent := by rw [hout, htrace]; exact hs.sent
  failed := by rw [hout, htrace, hdet]; exact hs.failed

/-- What writes neither the buffer, `ST` nor the trace keeps the invariant. -/
theorem Inv.of_eq {s t : State} (hs : Inv s) (hfb : t.fb = s.fb) (hst : t.st = s.st) (htrace : t.trace = s.trace) : Inv t :=
  hs.of_fields_eq hfb htrace (by rw [hst]) (by rw [hst]) (by rw [hst]) (by rw [hst])

theorem Inv.applyReset (s : State) : Inv (applyReset s) := reset_inv.of_eq rfl rfl rfl

/-- The two conditions that are flags, `ILL` and `IDX`, lie outside the fields the invariant speaks of. -/
theorem Inv.raise_flag {s : State} (hs : Inv s) {c : Condition} (hc : c = .illegalCommand ∨ c = .indexRange) :
    Inv (s.raise c) := by
  refine hs.of_fields_eq rfl rfl ?_ ?_ ?_ ?_ <;> rcases hc with rfl | rfl <;> simp [Condition.mark]

theorem Inv.takeIllegal {s : State} (hs : Inv s) : Inv (takeIllegal s) := hs.raise_flag (.inl rfl)

theorem Inv.readFb {s : State} (hs : Inv s) (b : Byte) : Inv (readFb b s) := by
  rcases readFb_cases b s with ⟨v, h⟩ | h <;> rw [h]
  · exact hs.of_eq rfl rfl rfl
  · exact hs.raise_flag (.inr rfl)

/-- CLR.ST forgets the outcome and its detail, and keeps `FBV` with the buffer it speaks of. -/
theorem Inv.clear {s : State} (hs : Inv s) : Inv (s.setSt (St.clear s.st)) where
  mem := hs.mem
  reserved := by simpa using hs.reserved
  detail _ := by simp
  valid h := hs.valid (by simpa using h)
  fresh h := by
    obtain ⟨hfb, -, htrace⟩ := hs.fresh (by simpa using h)
    exact ⟨hfb, by simp, htrace⟩
  trace := hs.trace
  sent h := by simp at h
  failed h := by simp at h

theorem Inv.encodeSample {s : State} (hs : Inv s) : Inv (encodeSample s) where
  mem := encodeSample_wf s hs.mem
  reserved := by simpa using hs.reserved
  detail := by simpa using hs.detail
  valid _ := ⟨s.vx, s.vy, s.wz, encodeSample_bytes s⟩
  fresh h := by simp at h
  trace := hs.trace
  sent := by simpa using hs.sent
  failed := by simpa using hs.failed

/-- Recording an outcome over a valid buffer keeps the invariant when the trace is well shaped and, for an outcome that
reports a write, ends in that write's answer. -/
theorem Inv.of_record {s t : State} (hs : Inv s) (hvalid : St.fbv s.st = true) {o : SendOutcome} {d : Byte}
    (hfb : t.fb = s.fb) (hst : t.st = St.record o d s.st) (hdet : o ≠ .droppedWriteFailed → d = 0x00#8)
    (htrace : TraceOk t.trace) (hsent : o = .sent → LastWrite t.trace .ok)
    (hfailed : o = .droppedWriteFailed → LastWrite t.trace (.ioError d)) : Inv t where
  mem := hfb ▸ hs.mem
  reserved := by simpa [hst] using hs.reserved
  detail h := by
    rw [hst, St.detail_record]
    exact hdet (by rintro rfl; simp [hst, SendOutcome.code] at h)
  valid _ := hfb ▸ hs.valid hvalid
  fresh h := by simp [hst, hvalid] at h
  trace := htrace
  sent h := hsent (by cases o <;> simp [hst, SendOutcome.code] at h ⊢)
  failed h := by
    rw [hst, St.detail_record]
    exact hfailed (by cases o <;> simp [hst, SendOutcome.code] at h ⊢)

/-- From a valid buffer the output stage keeps the invariant, whatever the transport answers. -/
theorem Inv.transmit {s : State} (hs : Inv s) (hvalid : St.fbv s.st = true) (a : Answer) : Inv (transmit a s) := by
  have hframe : IsFrame s.fb.bytes := hs.valid hvalid
  rcases transmit_cases a s with ⟨_, h⟩ | ⟨_, _, h⟩ | ⟨d, _, _, h⟩ <;> rw [h]
  · exact hs.of_record hvalid (o := .droppedClosed) rfl rfl (fun _ => rfl) hs.trace nofun nofun
  · exact hs.of_record hvalid (o := .sent) rfl rfl (fun _ => rfl) (hs.trace.append_write _ hframe)
      (fun _ => lastWrite_append _ _ _) nofun
  · exact hs.of_record hvalid (o := .droppedWriteFailed) rfl rfl (fun h => absurd rfl h) (hs.trace.append_write _ hframe)
      nofun (fun _ => lastWrite_append _ _ _)

theorem Inv.execState {s : State} (hs : Inv s) (i : Instr) : Inv (execState i s) := by
  cases i with
  | enc => exact hs.encodeSample
  | rdFb b => exact hs.readFb b
  | send =>
    have henc : Inv (Machine.encodeSample s.afterAnswer) := (hs.of_eq (by simp) (by simp) (by simp)).encodeSample
    exact henc.transmit (by simp) s.nextAnswer
  | clrSt => exact hs.clear
  | crcInit | crcByte | crcRd | ldVx | ldVy | ldWz | rdSt => exact hs.of_eq rfl rfl rfl

/-- Settles O58: an idle step changes nothing, a reset of either kind ends in the reset values, and taking an illegal word or
running a command keeps the invariant. -/
theorem stepKeepsInv : Obligations.StepKeepsInv := by
  intro s t hs h
  have hin (rest : List Input) : Inv (s.setInputs rest) := hs.of_eq rfl rfl rfl
  rcases step_cases s t h with
    ⟨_, rfl⟩ | ⟨_, rest, i, _, _, he⟩ | ⟨_, rest, _, _, _, rfl⟩ | ⟨rest, _, rfl⟩ | ⟨cw, rest, _, rfl⟩
  · exact hs
  · exact eq_execState he ▸ (hin rest).execState i
  · exact (hin rest).takeIllegal
  · exact Inv.applyReset _
  · obtain ⟨u, hu, -⟩ := resetDuring_eq cw (s.setInputs rest)
    exact hu ▸ Inv.applyReset u

end Sys2Proof.Machine
end

section
/-! PROOFS. Single bytes of the frame buffer (`20_memory.md` R35) and reads that repeat (R38). -/

namespace Sys2Proof.Machine

/-! ### Byte order -/

/-- The bytes under a value read back from the buffer are its bytes, least significant first. -/
theorem Memory.read_of_memRead_eq {m : Memory} {a n k : Nat} {v : BitVec (8 * n)} (h : m.memRead a n = v) (hk : k < n) :
    m.read (a + k) = v.extractLsb' (8 * k) 8 :=
  h ▸ (m.byte_memRead a n k hk).symm

/-- Every byte of a field that reads back as zero is zero. -/
theorem Memory.read_of_memRead_zero {m : Memory} {a n j : Nat} (h : m.memRead a n = 0#(8 * n)) (ha : a ≤ j)
    (hj : j < a + n) : m.read j = 0x00#8 := by
  obtain ⟨k, rfl⟩ := Nat.exists_eq_add_of_le ha
  exact (Memory.read_of_memRead_eq h (by omega)).trans BitVec.extractLsb'_zero

/-- Settles O28: each byte is taken from the value its field reads back as; bytes 14 to 37 are three zero fields of eight. -/
theorem fieldsAreLittleEndian : Obligations.FieldsAreLittleEndian := by
  unfold Obligations.FieldsAreLittleEndian
  intro s t h
  obtain ⟨hfb, -⟩ := exec_enc_or_send_encodes s t h
  have hframe : t.fb.bytes = frame s.vx s.vy s.wz := by rw [hfb, encodeSample_bytes]
  obtain ⟨hx, hy, hz, hposX, hposY, hyaw, hcks⟩ := t.fb.memRead_fields _ _ _ hframe
  have hcksByte (k : Nat) (hk : k < 2) : t.fb.read (38 + k) = (cks s.vx s.vy s.wz).extractLsb' (8 * k) 8 :=
    Memory.read_of_memRead_eq hcks hk
  refine ⟨fun k hk => ⟨Memory.read_of_memRead_eq hx hk, Memory.read_of_memRead_eq hy hk,
      Memory.read_of_memRead_eq hz hk⟩,
    fun k hk => ?_, hcksByte 0 (by decide), hcksByte 1 (by decide)⟩
  have hfield : 14 + k < 22 ∨ (22 ≤ 14 + k ∧ 14 + k < 30) ∨ 30 ≤ 14 + k := by omega
  rcases hfield with hhi | ⟨hlo, hhi⟩ | hlo
  · exact Memory.read_of_memRead_zero hposX (by omega) hhi
  · exact Memory.read_of_memRead_zero hposY hlo hhi
  · exact Memory.read_of_memRead_zero hyaw hlo (by omega)

/-! ### Reads -/

/-- RD.FB of an index that names a byte responds with that byte. -/
theorem readFb_of_le {b : Byte} (hb : b.toNat ≤ 40) (s : State) :
    readFb b s = s.respond (byteResponse (s.fb.read b.toNat)) := by
  have hbyte : s.fb.byte? (frameIndex b) = some (s.fb.read b.toNat) := if_pos (Nat.lt_succ_of_le hb)
  simp only [readFb, hbyte]

/-- A read appends one word to the responses, and which word does not depend on the responses so far. -/
theorem exec_read_responds {i : Instr} (hi : i = .crcRd ∨ i = .rdSt ∨ ∃ b : Byte, b.toNat ≤ 40 ∧ i = .rdFb b) (s : State) :
    ∃ v : Word, ∀ l, exec i { s with rsps := l } = .next { s with rsps := l ++ [v] } := by
  rcases hi with rfl | rfl | ⟨b, hb, rfl⟩
  · exact ⟨crcResponse s.crcAcc, fun _ => rfl⟩
  · exact ⟨s.st, fun _ => rfl⟩
  · exact ⟨byteResponse (s.fb.read b.toNat), fun _ => (exec_eq_next _ _).trans (congrArg _ (readFb_of_le hb _))⟩

/-- Settles O50: the second read finds the responses longer by one word, so it appends the same word. -/
theorem readsRepeat : Obligations.ReadsRepeat := by
  unfold Obligations.ReadsRepeat
  intro i s t hi h
  obtain ⟨v, hv⟩ := exec_read_responds hi s
  obtain rfl : { s with rsps := s.rsps ++ [v] } = t := Host.Outcome.next.inj ((hv s.rsps).symm.trans h)
  exact ⟨v, rfl, by simpa using hv (s.rsps ++ [v])⟩

end Sys2Proof.Machine
end

section
/-! PROOFS. The encoding (`30_encoding.md` R45 to R51): decoding and encoding undo each other, and the rows of the opcode map
and the illegal words follow from which words decode. -/

namespace Sys2Proof.Machine

open Sys2Proof.Laws
open Sys2Proof.Laws.EncodesLegal (opField_append immField_append highBits_byte)

/-! ### Commands and their fields -/

theorem byteOperand_setWidth (b : Byte) : byteOperand (b.setWidth 32) = b :=
  (BitVec.extractLsb'_setWidth_of_le (by decide)).trans BitVec.extractLsb'_eq_self

/-- An operand field with zero in bits 31:8 is its low byte, zero-extended. -/
theorem setWidth_byteOperand {imm : Word} (h : imm.extractLsb' 8 24 = 0#24) : (byteOperand imm).setWidth 32 = imm :=
  calc (byteOperand imm).setWidth 32 = 0#24 ++ imm.extractLsb' 0 8 := BitVec.setWidth_eq_append (by decide)
    _ = imm.extractLsb' 8 24 ++ imm.extractLsb' 0 8 := by rw [h]
    _ = imm := BitVec.extractLsb'_append_extractLsb'

theorem operandOk_imm (i : Instr) : operandOk i.opcode.format i.imm = true := by
  cases i with
  | crcByte b | rdFb b => exact beq_iff_eq.mpr (highBits_byte b)
  | crcInit | crcRd | ldVx | ldVy | ldWz | enc | send | rdSt | clrSt => rfl

theorem instr_imm (i : Instr) : i.opcode.instr i.imm = i := by
  cases i with
  | crcByte b => exact congrArg Instr.crcByte (byteOperand_setWidth b)
  | rdFb b => exact congrArg Instr.rdFb (byteOperand_setWidth b)
  | crcInit | crcRd | ldVx | ldVy | ldWz | enc | send | rdSt | clrSt => rfl

@[simp] theorem opcode_instr (o : Opcode) (imm : Word) : (o.instr imm).opcode = o := by
  cases o <;> rfl

/-- The command of a legal operand field has that field. -/
theorem imm_instr {o : Opcode} {imm : Word} (h : operandOk o.format imm = true) : (o.instr imm).imm = imm := by
  cases o with
  | crcByte | rdFb => exact setWidth_byteOperand (beq_iff_eq.mp h)
  | ldVx | ldVy | ldWz => rfl
  | crcInit | crcRd | enc | send | rdSt | clrSt => exact (beq_iff_eq.mp h).symm

/-! ### Round trips -/

/-- Settles O4: the word has the command's opcode byte and operand field, which make up the command again. -/
theorem decodeOfEncode : Obligations.DecodeOfEncode := by
  intro i
  have hop : opField (encode i) = i.opcode.byte := opField_append _ _
  have himm : immField (encode i) = i.imm := immField_append _ _
  refine (decode_ok_iff _ _).mpr ⟨i.opcode, hop, ?_, ?_⟩ <;> rw [himm]
  · exact operandOk_imm i
  · exact (instr_imm i).symm

/-- Settles O5: the command decoded has the word's opcode byte and, the operand being legal, its operand field. -/
theorem encodeOfDecode : Obligations.EncodeOfDecode := by
  intro cw i h
  obtain ⟨o, hop, hok, rfl⟩ := (decode_ok_iff cw i).mp h
  calc encode (o.instr (immField cw)) = o.byte ++ immField cw := by rw [encode, opcode_instr, imm_instr hok]
    _ = cw := by rw [← hop, ← cmdWord_split]

/-- Settles O6: each word is the encoding of its command. -/
theorem sampleWordsDecode : Obligations.SampleWordsDecode :=
  ⟨decodeOfEncode .crcInit, decodeOfEncode (.crcByte 0x31#8), decodeOfEncode .crcRd, decodeOfEncode (.ldVx 0x3FC00000#32),
    decodeOfEncode (.ldVy 0xC0100000#32), decodeOfEncode (.ldWz 0x3DCCCCCD#32), decodeOfEncode .enc,
    decodeOfEncode (.rdFb 38#8), decodeOfEncode .send, decodeOfEncode .rdSt, decodeOfEncode .clrSt⟩

/-! ### The opcode map -/

theorem byteOperand_immField (cw : CmdWord) : byteOperand (immField cw) = cw.extractLsb' 0 8 :=
  BitVec.extractLsb'_extractLsb'_of_le (by decide)

/-- `selects_iff`, of the match column as the rows write it. -/
theorem and_mask_eq_iff {r : OpcodeRow} (hr : r ∈ opcodeMap) (cw : CmdWord) :
    cw &&& r.mask = r.pattern ↔ opField cw = r.opcode.byte ∧ operandOk r.opcode.format (immField cw) = true :=
  beq_iff_eq.symm.trans (selects_iff r hr cw)

theorem decode_of_row {r : OpcodeRow} (hr : r ∈ opcodeMap) {cw : CmdWord} (h : cw &&& r.mask = r.pattern) :
    decode cw = .ok (r.opcode.instr (immField cw)) := by
  obtain ⟨hop, hok⟩ := (and_mask_eq_iff hr cw).mp h
  exact (decode_ok_iff cw _).mpr ⟨r.opcode, hop, hok, rfl⟩

theorem row_eq_of_opcode_eq : ∀ r ∈ opcodeMap, ∀ r' ∈ opcodeMap, r.opcode = r'.opcode → r = r' := by decide

theorem rows_disjoint {cw : CmdWord} {r r' : OpcodeRow} (hr : r ∈ opcodeMap) (hr' : r' ∈ opcodeMap)
    (h : cw &&& r.mask = r.pattern) (h' : cw &&& r'.mask = r'.pattern) : r = r' := by
  obtain ⟨hop, -⟩ := (and_mask_eq_iff hr cw).mp h
  obtain ⟨hop', -⟩ := (and_mask_eq_iff hr' cw).mp h'
  exact row_eq_of_opcode_eq r hr r' hr' (byte_injective _ _ (hop.symm.trans hop'))

/-- The decoder rejects exactly the words that select no row. -/
theorem no_row_iff_decode_error (cw : CmdWord) :
    (∀ r ∈ opcodeMap, cw &&& r.mask ≠ r.pattern) ↔ ∃ e, decode cw = .error e := by
  rw [decode_error_iff]
  constructor
  · intro h o hop
    obtain ⟨r, hr, rfl⟩ := exists_row o
    exact Bool.eq_false_iff.mpr fun hok => h r hr ((and_mask_eq_iff hr cw).mpr ⟨hop, hok⟩)
  · intro h r hr hsel
    obtain ⟨hop, hok⟩ := (and_mask_eq_iff hr cw).mp hsel
    exact Bool.false_ne_true ((h r.opcode hop).symm.trans hok)

/-- Settles O3: a row's word has its opcode and a legal operand, and no two rows share an opcode. -/
theorem opcodeMapSelectsCommand : Obligations.OpcodeMapSelectsCommand := by
  intro cw
  have row (r : OpcodeRow) (hr : r ∈ opcodeMap) (h : cw &&& r.mask = r.pattern) :
      decode cw = .ok (r.opcode.instr (immField cw)) := decode_of_row hr h
  refine ⟨row ⟨.crcInit, _, _⟩ (by decide), fun h => ?_, row ⟨.crcRd, _, _⟩ (by decide), row ⟨.ldVx, _, _⟩ (by decide),
    row ⟨.ldVy, _, _⟩ (by decide), row ⟨.ldWz, _, _⟩ (by decide), row ⟨.enc, _, _⟩ (by decide), fun h => ?_,
    row ⟨.send, _, _⟩ (by decide), row ⟨.rdSt, _, _⟩ (by decide), row ⟨.clrSt, _, _⟩ (by decide),
    fun r hr r' hr' => rows_disjoint hr hr', (no_row_iff_decode_error cw).mp⟩
  · rw [← byteOperand_immField]
    exact row ⟨.crcByte, _, _⟩ (by decide) h
  · rw [← byteOperand_immField]
    exact row ⟨.rdFb, _, _⟩ (by decide) h

/-! ### Illegal words -/

theorem highBits_immField (cw : CmdWord) : (immField cw).extractLsb' 8 24 = cw.extractLsb' 8 24 :=
  BitVec.extractLsb'_extractLsb'_of_le (by decide)

/-- The words the decoder rejects, in the words of R51: an `op` that is not listed, or an operand bit that is not zero where
the format of a listed `op` wants it zero. -/
theorem decode_error_iff_fields (cw : CmdWord) :
    (∃ e, decode cw = .error e) ↔
      opField cw ∉ [0x01#8, 0x02#8, 0x03#8, 0x10#8, 0x11#8, 0x12#8, 0x18#8, 0x19#8, 0x20#8, 0x30#8, 0x31#8] ∨
      (opField cw ∈ [0x01#8, 0x03#8, 0x18#8, 0x20#8, 0x30#8, 0x31#8] ∧ immField cw ≠ 0#32) ∨
      (opField cw ∈ [0x02#8, 0x19#8] ∧ (immField cw).extractLsb' 8 24 ≠ 0#24) := by
  rw [decode_error_iff]
  by_cases hlisted : ∃ o : Opcode, opField cw = o.byte
  · obtain ⟨o, ho⟩ := hlisted
    have honly : (∀ o' : Opcode, opField cw = o'.byte → operandOk o'.format (immField cw) = false) ↔
        operandOk o.format (immField cw) = false :=
      ⟨fun h => h o ho, fun h o' ho' => byte_injective o o' (ho.symm.trans ho') ▸ h⟩
    rw [honly, ho]
    cases o <;> simp [Opcode.byte, Opcode.format, operandOk]
  · have hnot : opField cw ∉ Opcode.all.map Opcode.byte := by
      intro h
      obtain ⟨o, -, ho⟩ := List.mem_map.mp h
      exact hlisted ⟨o, ho.symm⟩
    exact iff_of_true (fun o ho => absurd ⟨o, ho⟩ hlisted) (.inl hnot)

theorem step_of_decode_error {s : State} {cw : CmdWord} {rest : List Input} {e : Illegal}
    (hs : s.inputs = .command cw :: rest) (hd : decode cw = .error e) : step s = .next (takeIllegal (s.setInputs rest)) := by
  simp [step, accept, hs, hd]

/-- Writing 1 to a one-bit field sets that bit. -/
theorem putField_one (lo : Nat) (hlo : lo < 32) (st : Word) : putField lo 1#1 st = st ||| BitVec.twoPow 32 lo := by
  apply BitVec.eq_of_getLsbD_eq
  intro k hk
  rw [getLsbD_putField lo _ st k hk, BitVec.getLsbD_or, BitVec.getLsbD_twoPow]
  by_cases hkl : lo = k
  · subst hkl; simp [hlo]
  · rw [if_neg (by omega)]; simp [hkl]

/-- Settles O2: the rejected words are those R51 lists, and a step over one raises IllegalCommand, which sets bit 3. -/
theorem illegalWordSetsIllOnly : Obligations.IllegalWordSetsIllOnly := by
  intro cw
  refine ⟨?_, ?_, fun s rest hs hnone => ?_⟩
  · rw [no_row_iff_decode_error, decode_error_iff_fields, highBits_immField]
    rfl
  · rw [no_row_iff_decode_error]
    cases decode cw with
    | ok i => exact .inl ⟨i, rfl⟩
    | error e => exact .inr ⟨⟨e, rfl⟩, e, rfl⟩
  · obtain ⟨e, hd⟩ := (no_row_iff_decode_error cw).mp hnone
    have hill : (takeIllegal (s.setInputs rest)).st = s.st ||| 0x00000008#32 := putField_one 3 (by decide) s.st
    rw [step_of_decode_error hs hd, ← hill]
    rfl

end Sys2Proof.Machine
end

section
/-! PROOFS. The assembler (`30_encoding.md` R54, R55): the lines each kind of mnemonic accepts, and what a line stands for. -/

namespace Sys2Proof.Machine

/-! ### Accepted lines -/

theorem assembleLine_accepts_iff (l : SourceLine) : (∃ is, assembleLine l = .ok is) ↔ l.wf = true := by
  simp [assembleLine_ok_iff]

theorem assembleLine_of_wf {l : SourceLine} (h : l.wf = true) : assembleLine l = .ok (expandLine l) :=
  (assembleLine_ok_iff l _).mpr ⟨h, rfl⟩

theorem wf_iff_of_count_zero {m : Mnemonic} (hm : m.operandCount = some 0) (ops : List Nat) :
    SourceLine.wf ⟨m, ops⟩ = true ↔ ops = [] := by
  rw [wf_iff]
  simp only [hm, Option.some.injEq, forall_eq', List.length_eq_zero_iff, and_iff_left_iff_imp]
  rintro rfl
  simp

theorem wf_iff_of_count_one {m : Mnemonic} (hm : m.operandCount = some 1) (ops : List Nat) :
    SourceLine.wf ⟨m, ops⟩ = true ↔ ∃ x, ops = [x] ∧ x < m.operandLimit := by
  rw [wf_iff]
  simp only [hm, Option.some.injEq, forall_eq', List.length_eq_one_iff]
  constructor
  · rintro ⟨⟨x, rfl⟩, hx⟩
    exact ⟨x, rfl, by simpa using hx⟩
  · rintro ⟨x, rfl, hx⟩
    exact ⟨⟨x, rfl⟩, by simpa using hx⟩

theorem wf_iff_of_count_three {m : Mnemonic} (hm : m.operandCount = some 3) (ops : List Nat) :
    SourceLine.wf ⟨m, ops⟩ = true ↔
      ∃ x y z, ops = [x, y, z] ∧ x < m.operandLimit ∧ y < m.operandLimit ∧ z < m.operandLimit := by
  rw [wf_iff]
  simp only [hm, Option.some.injEq, forall_eq', List.length_eq_three]
  constructor
  · rintro ⟨⟨x, y, z, rfl⟩, hxyz⟩
    exact ⟨x, y, z, rfl, by simpa using hxyz⟩
  · rintro ⟨x, y, z, rfl, hxyz⟩
    exact ⟨⟨x, y, z, rfl⟩, by simpa using hxyz⟩

theorem wf_iff_of_count_any {m : Mnemonic} (hm : m.operandCount = none) (ops : List Nat) :
    SourceLine.wf ⟨m, ops⟩ = true ↔ ∀ x ∈ ops, x < m.operandLimit := by
  rw [wf_iff]
  simp [hm]

/-! ### What a command's line stands for -/

/-- A format B mnemonic with a byte: the literal's low byte is that byte. -/
theorem assembleLine_byte {o : Opcode} (ho : o.format = .b) (b : Byte) :
    assembleLine ⟨.command o, [b.toNat]⟩ = .ok [o.instr (b.setWidth 32)] := by
  have hcount : (Mnemonic.command o).operandCount = some 1 := by simp [Mnemonic.operandCount, ho]
  have hlimit : (Mnemonic.command o).operandLimit = 2 ^ 8 := by simp [Mnemonic.operandLimit, ho]
  refine assembleLine_of_wf ((wf_iff_of_count_one hcount _).mpr ⟨_, rfl, hlimit ▸ b.isLt⟩) |>.trans ?_
  simp [expandLine, literalAt, BitVec.ofNat_toNat]

theorem assembleLine_word {o : Opcode} (ho : o.format = .w) (w : Word) :
    assembleLine ⟨.command o, [w.toNat]⟩ = .ok [o.instr w] := by
  have hcount : (Mnemonic.command o).operandCount = some 1 := by simp [Mnemonic.operandCount, ho]
  have hlimit : (Mnemonic.command o).operandLimit = 2 ^ 32 := by simp [Mnemonic.operandLimit, ho]
  refine assembleLine_of_wf ((wf_iff_of_count_one hcount _).mpr ⟨_, rfl, hlimit ▸ w.isLt⟩) |>.trans ?_
  simp [expandLine, literalAt, BitVec.ofNat_toNat]

/-! ### What a pseudo-instruction stands for -/

theorem assembleLine_encode (x y z : Word) :
    assembleLine ⟨.encode, [x.toNat, y.toNat, z.toNat]⟩ = .ok (encodeExpansion x y z) := by
  refine assembleLine_of_wf ((wf_iff_of_count_three rfl _).mpr ⟨_, _, _, rfl, x.isLt, y.isLt, z.isLt⟩) |>.trans ?_
  simp [expandLine, literalAt, BitVec.ofNat_toNat]

theorem assembleLine_onsample (x y z : Word) :
    assembleLine ⟨.onsample, [x.toNat, y.toNat, z.toNat]⟩ = .ok (onsampleExpansion x y z) := by
  refine assembleLine_of_wf ((wf_iff_of_count_three rfl _).mpr ⟨_, _, _, rfl, x.isLt, y.isLt, z.isLt⟩) |>.trans ?_
  simp [expandLine, literalAt, BitVec.ofNat_toNat]

theorem assembleLine_crc16 (bs : List Byte) : assembleLine ⟨.crc16, bs.map BitVec.toNat⟩ = .ok (crc16Expansion bs) := by
  have hrange : ∀ x ∈ bs.map BitVec.toNat, x < 2 ^ 8 := List.forall_mem_map.mpr fun b _ => b.isLt
  refine assembleLine_of_wf ((wf_iff_of_count_any rfl _).mpr hrange) |>.trans ?_
  simp [expandLine, Function.comp_def]

/-- Settles O7: how many operands a mnemonic takes and how large they are decides which lines it accepts; the operands then
read back from their literals. -/
theorem assemblerAcceptsWellFormedLines : Obligations.AssemblerAcceptsWellFormedLines := by
  refine ⟨fun l => ?_, ⟨rfl, rfl, rfl, rfl, rfl, rfl⟩, fun b => ⟨?_, ?_⟩, fun w => ⟨?_, ?_, ?_⟩, fun x y z => ⟨?_, ?_⟩,
    assembleLine_crc16⟩
  · rw [assembleLine_accepts_iff]
    obtain ⟨m, ops⟩ := l
    cases m with
    | command o =>
      cases o with
      | crcInit | crcRd | enc | send | rdSt | clrSt => exact wf_iff_of_count_zero rfl ops
      | crcByte | rdFb | ldVx | ldVy | ldWz => exact wf_iff_of_count_one rfl ops
    | encode | onsample => exact wf_iff_of_count_three rfl ops
    | crc16 => exact wf_iff_of_count_any rfl ops
  · exact (assembleLine_byte rfl b).trans (by rw [Opcode.instr, byteOperand_setWidth])
  · exact (assembleLine_byte rfl b).trans (by rw [Opcode.instr, byteOperand_setWidth])
  · exact assembleLine_word rfl w
  · exact assembleLine_word rfl w
  · exact assembleLine_word rfl w
  · exact assembleLine_encode x y z
  · exact assembleLine_onsample x y z

end Sys2Proof.Machine
end

section
/-! PROOFS. Runs of encoded commands (`30_encoding.md` R55) and the responses of each command (R52). -/

namespace Sys2Proof.Machine

/-! ### A command does not read the host's inputs -/

theorem State.afterAnswer_setInputs (s : State) (l : List Input) :
    (s.setInputs l).afterAnswer = s.afterAnswer.setInputs l := by
  unfold State.afterAnswer
  rw [State.setInputs_answers]
  split <;> rfl

theorem readFb_setInputs (b : Byte) (s : State) (l : List Input) : readFb b (s.setInputs l) = (readFb b s).setInputs l := by
  unfold readFb
  rw [State.setInputs_fb]
  split <;> rfl

theorem transmit_setInputs (a : Answer) (s : State) (l : List Input) :
    transmit a (s.setInputs l) = (transmit a s).setInputs l := by
  obtain ⟨_ | _, _ | d, del⟩ := a <;> rfl

theorem execState_setInputs (i : Instr) (s : State) (l : List Input) :
    execState i (s.setInputs l) = (execState i s).setInputs l := by
  cases i with
  | rdFb b => exact readFb_setInputs b s l
  | send =>
    calc execState .send (s.setInputs l) = transmit s.nextAnswer (encodeSample (s.setInputs l).afterAnswer) := rfl
      _ = transmit s.nextAnswer ((encodeSample s.afterAnswer).setInputs l) := by rw [State.afterAnswer_setInputs]; rfl
      _ = (execState .send s).setInputs l := transmit_setInputs _ _ _
  | crcInit | crcByte | crcRd | ldVx | ldVy | ldWz | enc | rdSt | clrSt => rfl

/-! ### Runs of encoded commands -/

/-- The state a list of commands ends in. -/
def execAll (is : List Instr) (s : State) : State := is.foldl (fun t i => execState i t) s

/-- A run over the words of a list of commands carries out the commands and leaves the inputs behind them. -/
theorem run_commands (is : List Instr) {s : State} {rest : List Input}
    (hs : s.inputs = is.map (fun i => Input.command (encode i)) ++ rest) :
    run is.length s = .next (execAll is (s.setInputs rest)) := by
  induction is generalizing s with
  | nil =>
    have hrest : s.setInputs rest = s := by rw [← show s.inputs = rest from hs]; rfl
    rw [hrest]
    rfl
  | cons i is ih =>
    let todo := is.map (fun i => Input.command (encode i)) ++ rest
    have hstep : step s = .next ((execState i s).setInputs todo) := by
      rw [step_command (rest := todo) hs (decodeOfEncode i), exec_eq_next, execState_setInputs]
    calc run (is.length + 1) s = run is.length ((execState i s).setInputs todo) := run_succ _ _ _ hstep
      _ = .next (execAll is ((execState i s).setInputs rest)) := ih rfl
      _ = .next (execAll (i :: is) (s.setInputs rest)) := by rw [execAll, execAll, List.foldl_cons, execState_setInputs]

theorem setFbv_eq_or (st : Word) : St.setFbv st = st ||| 0x00000004#32 := putField_one 2 (by decide) st

/-- Settles O35: the loads put the sample into the registers and ENC encodes it. -/
theorem encodeExpansionBuildsFrame : Obligations.EncodeExpansionBuildsFrame := by
  intro x y z s rest hs
  refine ⟨s.fb.writeBytes 0 (frame x y z), Memory.bytes_writeBytes _ _ (length_frame x y z), ?_⟩
  have hrun : run 4 s = .next (encodeSample ((((s.setInputs rest).setVx x).setVy y).setWz z)) :=
    run_commands (encodeExpansion x y z) hs
  rw [hrun, ← setFbv_eq_or]
  rfl

/-! ### The output stage, field by field -/

theorem transmit_trace (a : Answer) (s : State) :
    (transmit a s).trace = s.trace ++ (if a.isOpen then [Event.flush, .write s.fb.bytes a.wres] else []) := by
  rcases transmit_cases a s with ⟨ho, h⟩ | ⟨ho, hw, h⟩ | ⟨d, ho, hw, h⟩ <;> simp [*]

theorem outcome_transmit (a : Answer) (s : State) :
    St.outcome (transmit a s).st =
      if a.isOpen then (match a.wres with | .ok => 1#2 | .ioError _ => 3#2) else 2#2 := by
  rcases transmit_cases a s with ⟨ho, h⟩ | ⟨ho, hw, h⟩ | ⟨d, ho, hw, h⟩ <;>
    simp [*, Condition.mark, SendOutcome.code]

@[simp] theorem transmit_environment (a : Answer) (s : State) :
    (transmit a s).inputs = s.inputs ∧ (transmit a s).answers = s.answers ∧ (transmit a s).draws = s.draws := by
  rcases transmit_cases a s with ⟨_, h⟩ | ⟨_, _, h⟩ | ⟨_, _, _, h⟩ <;> simp [h]

@[simp] theorem transmit_rsps (a : Answer) (s : State) : (transmit a s).rsps = s.rsps := by
  rcases transmit_cases a s with ⟨_, h⟩ | ⟨_, _, h⟩ | ⟨_, _, _, h⟩ <;> simp [h]

@[simp] theorem encodeSample_rsps (s : State) : (encodeSample s).rsps = s.rsps := by simp [encodeSample]

@[simp] theorem encodeSample_environment (s : State) :
    (encodeSample s).inputs = s.inputs ∧ (encodeSample s).answers = s.answers ∧ (encodeSample s).draws = s.draws := by
  simp [encodeSample]

/-! ### SEND, field by field -/

/-- SEND takes one answer and leaves the inputs alone. -/
theorem send_environment (s : State) :
    (execState .send s).inputs = s.inputs ∧ (execState .send s).answers = s.answers.tail ∧
    (execState .send s).draws = if s.answers = [] then s.draws + 1 else s.draws := by
  simp [execState]

theorem send_sample (s : State) :
    (execState .send s).vx = s.vx ∧ (execState .send s).vy = s.vy ∧ (execState .send s).wz = s.wz := by
  simp [execState]

theorem send_rsps (s : State) : (execState .send s).rsps = s.rsps := by simp [execState]

theorem send_crcAcc (s : State) : (execState .send s).crcAcc = cks s.vx s.vy s.wz := by simp [execState]

theorem encoded_bytes (s : State) : (encodeSample s.afterAnswer).fb.bytes = frame s.vx s.vy s.wz := by
  rw [encodeSample_bytes, s.afterAnswer_vx, s.afterAnswer_vy, s.afterAnswer_wz]

/-- SEND leaves the frame of the sample in the buffer, whatever the transport answers. -/
theorem send_bytes (s : State) : (execState .send s).fb.bytes = frame s.vx s.vy s.wz := by
  rw [execState, transmit_fb, encoded_bytes]

/-- SEND emits a flush and the write of that frame when the transport is open. -/
theorem send_trace (s : State) :
    (execState .send s).trace = s.trace ++
      (if s.nextAnswer.isOpen then [Event.flush, .write (frame s.vx s.vy s.wz) s.nextAnswer.wres] else []) := by
  rw [execState, transmit_trace, encoded_bytes, encodeSample_trace, s.afterAnswer_trace]

theorem outcome_send (s : State) :
    St.outcome (execState .send s).st =
      if s.nextAnswer.isOpen then (match s.nextAnswer.wres with | .ok => 1#2 | .ioError _ => 3#2) else 2#2 :=
  outcome_transmit _ _

theorem nextAnswer_eq {s : State} {a : Answer}
    (h : (∃ l, s.answers = a :: l) ∨ (s.answers = [] ∧ a = Config.freeAnswer s.draws)) : s.nextAnswer = a := by
  rcases h with ⟨l, hl⟩ | ⟨hnil, rfl⟩
  · exact s.nextAnswer_cons a l hl
  · exact s.nextAnswer_nil hnil

/-- Settles O43: the loads put the sample into the registers, SEND takes its answer, encodes the sample and transmits. -/
theorem onsampleExpansionSendsFrame : Obligations.OnsampleExpansionSendsFrame := by
  intro x y z a s rest hs ha
  let loaded : State := (((s.setInputs rest).setVx x).setVy y).setWz z
  have hrun : run 4 s = .next (execState .send loaded) := run_commands (onsampleExpansion x y z) hs
  have hnext : loaded.nextAnswer = a := nextAnswer_eq ha
  obtain ⟨hinputs, hanswers, hdraws⟩ := send_environment loaded
  obtain ⟨hvx, hvy, hwz⟩ := send_sample loaded
  have htrace := send_trace loaded
  have hout := outcome_send loaded
  rw [hnext] at htrace hout
  exact ⟨_, hrun, hinputs, hanswers, hdraws, hvx, hvy, hwz, send_bytes loaded, send_crcAcc loaded, send_rsps loaded, htrace,
    hout⟩

/-! ### Responses -/

/-- An index above 40 names no byte (`20_memory.md` R31). -/
theorem readFb_of_gt {b : Byte} (hb : 40 < b.toNat) (s : State) : readFb b s = s.raise .indexRange := by
  have hbyte : s.fb.byte? (frameIndex b) = none := if_neg (Nat.not_lt.mpr hb)
  simp only [readFb, hbyte]

/-- Settles O49: RD.FB by its index, CRC.RD and RD.ST by their word; no other command responds, nor an illegal word. -/
theorem responsesOfCommands : Obligations.ResponsesOfCommands := by
  refine ⟨fun i s t h => ?_, fun s t cw rest hs hl h => ?_⟩
  · obtain rfl := eq_execState h
    cases i with
    | crcRd => exact congrArg (s.rsps ++ [·]) (BitVec.setWidth_eq_append (by decide))
    | rdFb b =>
      by_cases hb : b.toNat ≤ 40
      · simp [execState, readFb_of_le hb, hb, byteResponse, BitVec.setWidth_eq_append]
      · simp [execState, readFb_of_gt (Nat.lt_of_not_le hb), hb]
    | rdSt => rfl
    | crcInit | crcByte | ldVx | ldVy | ldWz | enc | send | clrSt => simp [execState]
  · rw [step_illegal hs hl] at h
    cases h
    rfl

end Sys2Proof.Machine
end

section
/-! PROOFS. The CRC's pure functions (`41_crc16.md` R60 to R63, R70): the bits of a step, its linearity over xor, and what
follows from them. -/

namespace Sys2Proof.Machine

/-! ### The bit step -/

/-- Each bit comes from its upper neighbour; the bits of the polynomial are inverted when bit 0 goes out as 1. -/
theorem getLsbD_crcBit (a : Crc) (k : Nat) :
    (crcBit a).getLsbD k = (a.getLsbD (k + 1) ^^ (a.getLsbD 0 && Config.CRC_POLY.getLsbD k)) := by
  unfold crcBit
  cases a.getLsbD 0 <;> simp [Nat.add_comm]

/-- The polynomial 0xA001 has bits 15, 13 and 0. -/
theorem getLsbD_crcPoly : ∀ k < 16, Config.CRC_POLY.getLsbD k = (k == 15 || k == 13 || k == 0) := by decide

/-- Settles O8: the definition, and its bits with the polynomial's three written out. -/
theorem crcBitStep : Obligations.CrcBitStep :=
  fun a => ⟨rfl, fun k hk => by rw [getLsbD_crcBit, getLsbD_crcPoly k hk]⟩

/-- Settles O9: bit `k` of the mask is bit `k` of the polynomial and bit 0 of `a`. -/
theorem crcBitStepMaskForm : Obligations.CrcBitStepMaskForm := by
  intro a
  apply BitVec.eq_of_getLsbD_eq
  intro k hk
  rw [getLsbD_crcBit, BitVec.getLsbD_xor, BitVec.getLsbD_and, BitVec.getLsbD_replicate]
  simp [Config.CRC_POLY, hk, Nat.mod_one, Nat.add_comm, Bool.and_comm]

theorem crcBit_of_even {a : Crc} (h : a.getLsbD 0 = false) : crcBit a = a >>> 1 :=
  if_neg (Bool.eq_false_iff.mp h)

theorem crcBit_xor (a a' : Crc) : crcBit (a ^^^ a') = crcBit a ^^^ crcBit a' := by
  apply BitVec.eq_of_getLsbD_eq
  intro k _
  simp only [getLsbD_crcBit, BitVec.getLsbD_xor, Bool.and_xor_distrib_right, Bool.xor_assoc, Bool.xor_left_comm]

theorem getLsbD_crcBit_top (a : Crc) : (crcBit a).getLsbD 15 = a.getLsbD 0 := by
  rw [getLsbD_crcBit, getLsbD_crcPoly 15 (by decide), BitVec.getLsbD_of_ge a 16 (by decide)]
  simp

/-- Bit 15 of the result tells bit 0 of the operand, and with it every other bit tells its upper neighbour. -/
theorem crcBit_injective : Function.Injective crcBit := by
  intro a a' h
  have hzero : a.getLsbD 0 = a'.getLsbD 0 := by rw [← getLsbD_crcBit_top, h, getLsbD_crcBit_top]
  have hnext (k : Nat) : a.getLsbD (k + 1) = a'.getLsbD (k + 1) := by
    have hbit : (crcBit a).getLsbD k = (crcBit a').getLsbD k := by rw [h]
    rwa [getLsbD_crcBit, getLsbD_crcBit, hzero, Bool.xor_left_inj] at hbit
  apply BitVec.eq_of_getLsbD_eq
  intro k _
  cases k with
  | zero => exact hzero
  | succ k => exact hnext k

theorem crcBit_bijective : Function.Bijective crcBit := Finite.injective_iff_bijective.mp crcBit_injective

/-! ### Bit steps in a row -/

theorem crcBit_iterate_xor (n : Nat) (a a' : Crc) : crcBit^[n] (a ^^^ a') = crcBit^[n] a ^^^ crcBit^[n] a' := by
  induction n generalizing a a' with
  | zero => rfl
  | succ n ih => simp only [Function.iterate_succ_apply, crcBit_xor, ih]

/-- As long as the bits going out are 0, the steps only shift. -/
theorem crcBit_iterate_eq_shift (n : Nat) {a : Crc} (h : ∀ k < n, a.getLsbD k = false) : crcBit^[n] a = a >>> n := by
  induction n generalizing a with
  | zero => exact (BitVec.ushiftRight_zero a).symm
  | succ n ih =>
    have hshift : ∀ k < n, (a >>> 1).getLsbD k = false := fun k hk => by
      rw [BitVec.getLsbD_ushiftRight]; exact h (1 + k) (by omega)
    rw [Function.iterate_succ_apply, crcBit_of_even (h 0 (by omega)), ih hshift, Nat.add_comm n 1, BitVec.shiftRight_add]

/-- Of eight steps the high byte is only shifted; the low byte alone decides what is xored in. -/
theorem crcBit_iterate_eight (c : Crc) : crcBit^[8] c = (c >>> 8) ^^^ crcBit^[8] (c &&& 0x00FF#16) := by
  have hmask : ∀ k < 8, (0x00FF#16).getLsbD k = true := by decide
  have hlow : ∀ k < 8, (c ^^^ (c &&& 0x00FF#16)).getLsbD k = false := fun k hk => by simp [hmask k hk]
  have hshift : (c ^^^ (c &&& 0x00FF#16)) >>> 8 = c >>> 8 := by
    simp [BitVec.ushiftRight_xor_distrib, BitVec.ushiftRight_and_distrib]
  calc crcBit^[8] c = crcBit^[8] ((c ^^^ (c &&& 0x00FF#16)) ^^^ (c &&& 0x00FF#16)) := by rw [xor_cancel_right]
    _ = (c >>> 8) ^^^ crcBit^[8] (c &&& 0x00FF#16) := by
        rw [crcBit_iterate_xor, crcBit_iterate_eq_shift 8 hlow, hshift]

/-! ### The byte step -/

theorem crcOperand_xor (b b' : Byte) : crcOperand (b ^^^ b') = crcOperand b ^^^ crcOperand b' := BitVec.setWidth_xor

theorem crcOperand_injective : Function.Injective crcOperand :=
  Function.LeftInverse.injective (g := BitVec.setWidth 8) fun b => by simp [crcOperand]

/-- A byte xored in leaves the high byte alone. -/
theorem xor_crcOperand_shift (a : Crc) (b : Byte) : (a ^^^ crcOperand b) >>> 8 = a >>> 8 := by
  apply BitVec.eq_of_getLsbD_eq
  intro k _
  simp [crcOperand]

theorem xor_crcOperand_eq_append (a : Crc) (b : Byte) :
    a ^^^ crcOperand b = a.extractLsb' 8 8 ++ (a.extractLsb' 0 8 ^^^ b) :=
  have hbytes : a.extractLsb' 8 8 ++ a.extractLsb' 0 8 = a := BitVec.extractLsb'_append_extractLsb' (w := 8) (len := 8)
  calc a ^^^ crcOperand b = (a.extractLsb' 8 8 ++ a.extractLsb' 0 8) ^^^ (0#8 ++ b) :=
        congrArg₂ _ hbytes.symm (BitVec.setWidth_eq_append (by decide))
    _ = a.extractLsb' 8 8 ++ (a.extractLsb' 0 8 ^^^ b) := by rw [BitVec.xor_append, BitVec.xor_zero]

/-- Settles O10: xoring the zero-extended byte is xoring the low byte. -/
theorem crcByteStep : Obligations.CrcByteStep :=
  fun a b => congrArg crcBit^[8] (xor_crcOperand_eq_append a b)

theorem crcByte_xor (a a' : Crc) (b b' : Byte) : crcByte (a ^^^ a') (b ^^^ b') = crcByte a b ^^^ crcByte a' b' :=
  calc crcByte (a ^^^ a') (b ^^^ b') = crcBit^[8] ((a ^^^ crcOperand b) ^^^ (a' ^^^ crcOperand b')) := by
        rw [crcByte, crcOperand_xor]; ac_rfl
    _ = crcByte a b ^^^ crcByte a' b' := crcBit_iterate_xor 8 _ _

@[simp] theorem crcByte_zero (a : Crc) : crcByte a 0x00#8 = crcBit^[8] a :=
  congrArg crcBit^[8] BitVec.xor_zero

/-- Settles O13: a step's bits are xors of its operand's bits, so xor passes through one step and through eight. -/
theorem crcStepsLinear : Obligations.CrcStepsLinear :=
  ⟨crcBit_xor, crcByte_xor, fun _ _ => (crcByte_zero _).symm⟩

/-- Settles O15: the byte step is a xor, which undoes itself, and then eight bijective steps. -/
theorem crcStepsBijective : Obligations.CrcStepsBijective := by
  have hsteps : Function.Bijective crcBit^[8] := crcBit_bijective.iterate 8
  refine ⟨crcBit_bijective, fun b => ?_, fun a b b' h => ?_⟩
  · have hxor : Function.Involutive fun a : Crc => a ^^^ crcOperand b := fun _ => xor_cancel_right _ _
    exact hsteps.comp hxor.bijective
  · exact crcOperand_injective ((BitVec.xor_right_inj a).mp (hsteps.injective h))

/-- Settles O16: the table is indexed by the low byte, and the byte xored in leaves the high byte alone. -/
theorem crcTableForm : Obligations.CrcTableForm := by
  intro a b
  rw [crcByte, crcBit_iterate_eight, xor_crcOperand_shift]
  rfl

/-! ### Sequences -/

/-- Settles O11: a left fold over the empty list, and over a list with one more byte. -/
theorem crcOfSequence : Obligations.CrcOfSequence :=
  ⟨rfl, fun bs b => List.foldl_concat crcByte Config.CRC_INIT b bs⟩

/-- Settles O12: the running values are those of R63 item 2. -/
theorem crcTestVector : Obligations.CrcTestVector := by
  unfold Obligations.CrcTestVector
  decide +kernel

/-- Feeding the accumulator its own low byte leaves its high byte. -/
theorem crcByte_lowByte (a : Crc) : crcByte a (a.extractLsb' 0 8) = a >>> 8 := by
  have hlow : ∀ k < 8, (a ^^^ crcOperand (a.extractLsb' 0 8)).getLsbD k = false := fun k hk => by
    simp [crcOperand, hk, show k < 16 by omega]
  rw [crcByte, crcBit_iterate_eq_shift 8 hlow, xor_crcOperand_shift]

/-- Feeding an accumulator that is one byte that same byte leaves 0. -/
theorem crcByte_crcOperand (b : Byte) : crcByte (crcOperand b) b = 0x0000#16 := by
  rw [crcByte, BitVec.xor_self]
  exact Function.iterate_fixed (rfl : crcBit 0x0000#16 = 0x0000#16) 8

theorem shift_eq_crcOperand (a : Crc) : a >>> 8 = crcOperand (a.extractLsb' 8 8) :=
  (BitVec.ushiftRight_eq_extractLsb'_of_lt (by decide)).trans (BitVec.setWidth_eq_append (by decide)).symm

/-- Feeding the accumulator its own two bytes, low byte first, leaves 0. -/
theorem crcByte_ownBytes (a : Crc) : crcByte (crcByte a (a.extractLsb' 0 8)) (a.extractLsb' 8 8) = 0x0000#16 := by
  rw [crcByte_lowByte, shift_eq_crcOperand, crcByte_crcOperand]

theorem crc16_append_own (bs : List Byte) : crc16 (bs ++ leBytes 2 (crc16 bs)) = 0x0000#16 := by
  rw [crc16, List.foldl_append]
  exact crcByte_ownBytes (crc16 bs)

/-- Settles O14: bytes 2 to 39 of a frame are its payload and the two bytes of the payload's CRC. -/
theorem crcResidueIsZero : Obligations.CrcResidueIsZero :=
  ⟨crc16_append_own, fun x y z => crc16_append_own (payload x y z)⟩

end Sys2Proof.Machine
end

section
/-! PROOFS. The CRC commands (`41_crc16.md` R64 to R67): their words, their effects, and a call of the document's function. -/

namespace Sys2Proof.Machine

open Sys2Proof.Laws (decode_error_iff byte_injective)
open Sys2Proof.Laws.EncodesLegal (opField_append immField_append)

/-- `op ++ imm` as the sum R66 writes: `imm` added to the word whose operand field is zero. -/
theorem add_setWidth_eq_append (o : Byte) (w : Word) : (o ++ 0#32 : CmdWord) + w.setWidth 40 = o ++ w := by
  have hword : (w.setWidth 40 : CmdWord) = 0#8 ++ w := BitVec.setWidth_eq_append (by decide)
  rw [hword, BitVec.add_eq_or_of_and_eq_zero, BitVec.or_append, BitVec.or_zero, BitVec.zero_or]
  rw [BitVec.and_append, BitVec.and_zero, BitVec.zero_and, BitVec.zero_append_zero]

theorem encode_crcByte (b : Byte) : encode (.crcByte b) = 0x0200000000#40 + b.setWidth 40 :=
  calc encode (.crcByte b) = (0x02#8 ++ 0#32) + (b.setWidth 32).setWidth 40 := (add_setWidth_eq_append 0x02#8 _).symm
    _ = 0x0200000000#40 + b.setWidth 40 := by rw [BitVec.setWidth_setWidth (by decide)]; rfl

/-- Settles O17: an `op` of 0x01 is CRC.INIT's alone, whose format has no operand. -/
theorem crcInitSetsAccumulator : Obligations.CrcInitSetsAccumulator := by
  refine ⟨decodeOfEncode .crcInit, fun imm himm => ?_, fun s => rfl⟩
  refine (decode_error_iff _).mpr fun o ho => ?_
  obtain rfl : Opcode.crcInit = o := byte_injective _ _ ((opField_append 0x01#8 imm).symm.trans ho)
  exact beq_eq_false_iff_ne.mpr ((immField_append 0x01#8 imm).trans_ne himm)

/-- Settles O18: the word is the command's encoding; the effect and the examples are evaluated. -/
theorem crcByteUpdatesAccumulator : Obligations.CrcByteUpdatesAccumulator := by
  refine ⟨fun b => ?_, fun b s => rfl, crcByte_zero, rfl, by decide⟩
  rw [← encode_crcByte]
  exact decodeOfEncode (.crcByte b)

theorem exec_crcRd (s : State) :
    exec .crcRd s = .next { s with rsps := s.rsps ++ [(0#16 ++ s.crcAcc).cast rfl] } := by
  have hzext : crcResponse s.crcAcc = (0#16 ++ s.crcAcc).cast rfl := BitVec.setWidth_eq_append (by decide)
  rw [← hzext]
  rfl

/-- Settles O19: the response is the accumulator, in which ENC and SEND leave the checksum. -/
theorem crcRdRespondsAccumulator : Obligations.CrcRdRespondsAccumulator := by
  refine ⟨decodeOfEncode .crcRd, exec_crcRd, fun s t h => ?_, rfl⟩
  obtain ⟨-, hcrc⟩ := exec_enc_or_send_encodes s t h
  rw [exec_crcRd, hcrc, encodeSample_crcAcc]

/-! ### A call of CRC16 -/

theorem execAll_append (is js : List Instr) (s : State) : execAll (is ++ js) s = execAll js (execAll is s) :=
  List.foldl_append

/-- A row of CRC.BYTE commands folds the byte step over the accumulator. -/
theorem execAll_crcBytes (bs : List Byte) (s : State) :
    execAll (bs.map .crcByte) s = s.setCrcAcc (bs.foldl crcByte s.crcAcc) := by
  induction bs generalizing s with
  | nil => rfl
  | cons b bs ih => exact ih (s.setCrcAcc (crcByte s.crcAcc b))

/-- Settles O21: CRC.INIT starts the fold at 0xFFFF, the CRC.BYTE commands carry it out, CRC.RD responds with its result. -/
theorem crcCallRespondsChecksum : Obligations.CrcCallRespondsChecksum := by
  intro bs s rest hs
  have hlength : (crc16Expansion bs).length = bs.length + 2 := by simp [crc16Expansion]
  have hend : execAll (crc16Expansion bs) (s.setInputs rest) =
      ((s.setInputs rest).setCrcAcc (crc16 bs)).respond (crcResponse (crc16 bs)) := by
    rw [crc16Expansion, execAll_append, execAll_append, execAll_crcBytes]
    rfl
  rw [← hlength, run_commands _ hs, hend]
  rfl

end Sys2Proof.Machine
end

section
/-! PROOFS. The serializer (`42_serializer.md` R77 to R83, R86): the bytes of a frame, writes of the buffer in parts, and the
effects of the loads, ENC and RD.FB. -/

namespace Sys2Proof.Machine

/-! ### The bytes of a frame -/

/-- Settles O24: the fields of `frame` are their bytes, and bytes 2 to 37 are the payload the checksum is taken of. -/
theorem frameBytes : Obligations.FrameBytes := by
  intro x y z
  have hpayload : payload x y z = ((frame x y z).drop 2).take 36 := rfl
  exact ⟨rfl, hpayload, congrArg crc16 hpayload, length_frame x y z⟩

theorem frame_sample_slice (x y z : Word) :
    ((frame x y z).drop 2).take 12 = leBytes 4 x ++ leBytes 4 y ++ leBytes 4 z := rfl

/-- Settles O25: bytes 2 to 13 are three groups of four, and each group determines its pattern. -/
theorem frameDeterminesSample : Obligations.FrameDeterminesSample := by
  intro x y z x' y' z' h
  rw [frame_sample_slice, frame_sample_slice] at h
  obtain ⟨hxy, hz⟩ := List.append_inj h (by simp)
  obtain ⟨hx, hy⟩ := List.append_inj hxy (by simp)
  exact ⟨leBytes_injective 4 hx, leBytes_injective 4 hy, leBytes_injective 4 hz⟩

/-! ### Reads of a slice of the buffer -/

/-- A slice of the buffer that is known tells what its indices read. -/
theorem Memory.read_of_slice {m : Memory} {a k : Nat} {l : List Byte} (h : (m.bytes.drop a).take l.length = l)
    (hk : k < l.length) : m.read (a + k) = l[k] := by
  have hbound : a + k < m.bytes.length := by
    have hlen := congrArg List.length h
    rw [List.length_take, List.length_drop] at hlen
    omega
  calc m.read (a + k) = m.bytes[a + k] := (m.getElem_bytes _ hbound).symm
    _ = ((m.bytes.drop a).take l.length)[k]'(by rwa [h]) := by rw [List.getElem_take, List.getElem_drop]
    _ = l[k] := by simp only [h]

/-- Settles O32: the buffer is a frame, whose sentinels and zero fields are slices of it, whose checksum reads back and whose
residue is 0. -/
theorem validBufferHoldsFrame : Obligations.ValidBufferHoldsFrame := by
  intro s hs hfbv
  obtain ⟨x, y, z, hframe⟩ := hs.valid hfbv
  have byte (a : Nat) (l : List Byte) (k : Nat) (hk : k < l.length)
      (hslice : ((frame x y z).drop a).take l.length = l) : s.fb.read (a + k) = l[k] :=
    Memory.read_of_slice (hframe ▸ hslice) hk
  obtain ⟨-, -, -, -, -, -, hcks⟩ := s.fb.memRead_fields x y z hframe
  obtain ⟨-, -, hwindow, -⟩ := frameBytes x y z
  refine ⟨s.fb.length_bytes, byte 0 [0x7A#8, 0x7B#8] 0 (by decide) rfl, byte 0 [0x7A#8, 0x7B#8] 1 (by decide) rfl,
    byte 40 [0x7D#8] 0 (by decide) rfl, fun a hlo hhi => ?_, ?_, ?_⟩
  · obtain ⟨k, rfl⟩ := Nat.exists_eq_add_of_le hlo
    have hk : k < (List.replicate 24 0x00#8).length := by simp only [List.length_replicate]; omega
    exact (byte 14 (List.replicate 24 0x00#8) k hk rfl).trans (List.getElem_replicate hk)
  · rw [hcks, hframe, hwindow]
  · rw [hframe]
    exact crc16_append_own (payload x y z)

/-! ### Writes of the buffer in parts -/

theorem Memory.writeBytes_append (m : Memory) (a : Nat) (l l' : List Byte) :
    m.writeBytes a (l ++ l') = (m.writeBytes a l).writeBytes (a + l.length) l' := by
  induction l generalizing m a with
  | nil => rfl
  | cons b l ih =>
    calc (m.write a b).writeBytes (a + 1) (l ++ l')
        = ((m.write a b).writeBytes (a + 1) l).writeBytes (a + 1 + l.length) l' := ih _ _
      _ = (m.writeBytes a (b :: l)).writeBytes (a + (l.length + 1)) l' := by
          rw [Nat.add_assoc, Nat.add_comm 1]; rfl

/-- A row of bytes written inside the buffer is found where it was written. -/
theorem Memory.slice_writeBytes (m : Memory) (a : Nat) (l : List Byte) (h : a + l.length ≤ 41) :
    ((m.writeBytes a l).bytes.drop a).take l.length = l := by
  apply List.ext_getElem
  · rw [List.length_take, List.length_drop, Memory.length_bytes]; omega
  · intro k _ hk
    rw [List.getElem_take, List.getElem_drop, Memory.getElem_bytes, Memory.read_writeBytes, if_pos (by omega)]
    simp [hk]

/-- The stores of the payload's fields at their offsets write the payload from index 2 on. -/
theorem Memory.store_payload (m : Memory) (x y z : Word) :
    (((((m.memWrite Config.OFF_LX 4 x).memWrite Config.OFF_LY 4 y).memWrite Config.OFF_AZ 4 z).memWrite
      Config.OFF_PX 8 Config.POSE_ZERO).memWrite Config.OFF_PY 8 Config.POSE_ZERO).memWrite
      Config.OFF_YAW 8 Config.POSE_ZERO = m.writeBytes 2 (payload x y z) := by
  simp only [payload, Memory.memWrite, ← List.append_assoc, Memory.writeBytes_append]
  rfl

/-- Settles O30: the stores write the header, the payload, the checksum found in the buffer, which is the payload's, and the
footer, each where the one before ends. -/
theorem fieldStoresMakeFrame : Obligations.FieldStoresMakeFrame := by
  intro m x y z _
  let header := m.writeBytes 0 [Config.HDR1, Config.HDR2]
  have hcrc : crc16 (((header.writeBytes 2 (payload x y z)).bytes.drop 2).take 36) = cks x y z :=
    congrArg crc16 (header.slice_writeBytes 2 (payload x y z) (by simp))
  calc storeFields m x y z
      = ((header.writeBytes 2 (payload x y z)).memWrite 38 2
          (crc16 (((header.writeBytes 2 (payload x y z)).bytes.drop 2).take 36))).memWrite 40 1 Config.FTR := by
        rw [← header.store_payload x y z]; rfl
    _ = ((header.writeBytes 2 (payload x y z)).writeBytes 38 (leBytes 2 (cks x y z))).writeBytes 40 [Config.FTR] := by
        rw [hcrc]; rfl
    _ = m.writeBytes 0 (frame x y z) := by simp only [frame, Memory.writeBytes_append]; rfl

/-! ### ENC -/

/-- A write of all 41 bytes forgets what a canonical buffer held. -/
theorem Memory.writeBytes_eq_of_wf {m m' : Memory} {l : List Byte} (h : m.wf = true) (h' : m'.wf = true)
    (hl : l.length = 41) : m.writeBytes 0 l = m'.writeBytes 0 l :=
  canonicalBuffersEqual _ _ (Memory.writeBytes_wf l m 0 h) (Memory.writeBytes_wf l m' 0 h')
    ((m.bytes_writeBytes l hl).trans (m'.bytes_writeBytes l hl).symm)

theorem encodeSample_eq (s : State) :
    encodeSample s = { s with fb := s.fb.writeBytes 0 (frame s.vx s.vy s.wz), crcAcc := cks s.vx s.vy s.wz
                              st := St.setFbv s.st } := by
  simp only [encodeSample, State.setFb, State.setCrcAcc, State.setSt]

theorem encodeSample_setFb {s : State} {m : Memory} (hs : s.fb.wf = true) (hm : m.wf = true) :
    encodeSample (s.setFb m) = encodeSample s := by
  have hfb : m.writeBytes 0 (frame s.vx s.vy s.wz) = s.fb.writeBytes 0 (frame s.vx s.vy s.wz) :=
    Memory.writeBytes_eq_of_wf hm hs (length_frame _ _ _)
  simp only [encodeSample_eq, State.setFb, hfb]

/-- Settles O27: ENC writes all 41 bytes. -/
theorem encForgetsOldBuffer : Obligations.EncForgetsOldBuffer :=
  fun _ _ hs hm => congrArg Host.Outcome.next (encodeSample_setFb hs hm).symm

@[simp] theorem St.setFbv_setFbv (st : Word) : St.setFbv (St.setFbv st) = St.setFbv st := by
  rw [setFbv_eq_or, setFbv_eq_or, BitVec.or_assoc, BitVec.or_self]

theorem encodeSample_encodeSample {s : State} (hs : s.fb.wf = true) :
    encodeSample (encodeSample s) = encodeSample s := by
  have hfb : (s.fb.writeBytes 0 (frame s.vx s.vy s.wz)).writeBytes 0 (frame s.vx s.vy s.wz) =
      s.fb.writeBytes 0 (frame s.vx s.vy s.wz) :=
    Memory.writeBytes_eq_of_wf (Memory.writeBytes_wf _ s.fb 0 hs) hs (length_frame _ _ _)
  simp only [encodeSample_eq, hfb, St.setFbv_setFbv]

theorem exec_enc (s : State) :
    exec .enc s = .next { s with fb := (encodeSample s).fb, crcAcc := cks s.vx s.vy s.wz
                                 st := s.st ||| 0x00000004#32 } := by
  rw [exec_eq_next, execState, encodeSample_eq, setFbv_eq_or]

/-- ENC leaves the checksum's bytes in the buffer, the low byte at index 38. -/
theorem encodeSample_checksum_bytes (s : State) :
    ((encodeSample s).fb.read 39 ++ (encodeSample s).fb.read 38).cast rfl = cks s.vx s.vy s.wz := by
  obtain ⟨-, -, hlow, hhigh⟩ := fieldsAreLittleEndian s (encodeSample s) (.inl rfl)
  rw [hlow, hhigh]
  exact BitVec.extractLsb'_append_extractLsb' (w := 8) (len := 8)

/-- Settles O26: ENC writes the 41 bytes of the frame and no index above them; a second ENC finds its own bytes. -/
theorem encBuildsFrame : Obligations.EncBuildsFrame := by
  refine ⟨decodeOfEncode .enc, fun s => ⟨(encodeSample s).fb, exec_enc s, encodeSample_bytes s,
    encodeSample_checksum_bytes s, fun a ha => ?_⟩, fun s t hs h => ?_, by decide +kernel, by decide +kernel⟩
  · rw [encodeSample_fb, Memory.read_writeBytes, if_neg (by omega)]
  · obtain rfl := eq_execState h
    rw [exec_eq_next, execState, execState, encodeSample_encodeSample hs]

/-! ### Words with an operand -/

/-- A command's word is its operand field added to the word of its `op` byte. -/
theorem decode_add_operand (i : Instr) (op : Byte) (hop : i.opcode.byte = op) :
    decode ((op ++ 0#32 : CmdWord) + i.imm.setWidth 40) = .ok i := by
  rw [add_setWidth_eq_append, ← hop]
  exact decodeOfEncode i

/-- Settles O22: each load's word has the operand as its operand field. -/
theorem loadsWriteTheirRegister : Obligations.LoadsWriteTheirRegister :=
  fun w _ => ⟨⟨decode_add_operand (.ldVx w) 0x10#8 rfl, rfl⟩, ⟨decode_add_operand (.ldVy w) 0x11#8 rfl, rfl⟩,
    ⟨decode_add_operand (.ldWz w) 0x12#8 rfl, rfl⟩⟩

/-! ### RD.FB -/

theorem decode_rdFb (b : Byte) : decode (0x1900000000#40 + b.setWidth 40) = .ok (.rdFb b) := by
  have hzext : (b.setWidth 32).setWidth 40 = b.setWidth 40 := BitVec.setWidth_setWidth (by decide)
  rw [← hzext]
  exact decode_add_operand (.rdFb b) 0x19#8 rfl

theorem exec_rdFb_of_le {b : Byte} (hb : b.toNat ≤ 40) (s : State) :
    exec (.rdFb b) s = .next { s with rsps := s.rsps ++ [(0#24 ++ s.fb.read b.toNat).cast rfl] } := by
  have hzext : byteResponse (s.fb.read b.toNat) = (0#24 ++ s.fb.read b.toNat).cast rfl :=
    BitVec.setWidth_eq_append (by decide)
  rw [exec_eq_next, execState, readFb_of_le hb, hzext]
  rfl

theorem exec_rdFb_of_gt {b : Byte} (hb : 40 < b.toNat) (s : State) :
    exec (.rdFb b) s = .next { s with st := s.st ||| 0x00000010#32 } := by
  have hidx : Condition.indexRange.mark s.st = s.st ||| 0x00000010#32 := putField_one 4 (by decide) s.st
  rw [exec_eq_next, execState, readFb_of_gt hb, ← hidx]
  rfl

/-- Settles O31: the index decides between the response and the flag; before the first frame the buffer lists no cell. -/
theorem rdFbReadsByteOrFlagsRange : Obligations.RdFbReadsByteOrFlagsRange := by
  refine fun b => ⟨decode_rdFb b, fun hb => ⟨exec_rdFb_of_le hb, fun s hs hfbv => ?_⟩, fun hb => exec_rdFb_of_gt hb⟩
  obtain ⟨hempty, -, -⟩ := hs.fresh hfbv
  have hread : s.fb.read b.toNat = 0x00#8 := by rw [hempty]; rfl
  rw [exec_rdFb_of_le hb, hread]
  rfl

end Sys2Proof.Machine
end

section
/-! PROOFS. The output stage (`43_transmit.md` R90 to R97): what SEND records in `ST` and emits for each of the transport's
answers, and that the sample and the answer alone decide it. -/

namespace Sys2Proof.Machine

/-! ### The status a SEND records -/

/-- Recording an outcome over a valid buffer clears `OUTCOME` and `DETAIL`, sets `FBV`, and puts the new fields in. -/
theorem St.record_setFbv (o : SendOutcome) (d : Byte) (st : Word) :
    St.record o d (St.setFbv st) =
      (st &&& 0xFFFF00FC#32) ||| 0x00000004#32 ||| o.code.setWidth 32 ||| (d.setWidth 32 <<< 8) := by
  have hcode : o.code.setWidth 32 &&& 0xFFFF00FF#32 = o.code.setWidth 32 := by cases o <;> rfl
  have hout : St.setOutcome o (St.setFbv st) = (st &&& 0xFFFFFFFC#32) ||| 0x00000004#32 ||| o.code.setWidth 32 := by
    rw [setFbv_eq_or]
    simp [St.setOutcome, putField, BitVec.and_or_distrib_right]
  calc St.record o d (St.setFbv st)
      = (St.setOutcome o (St.setFbv st) &&& 0xFFFF00FF#32) ||| (d.setWidth 32 <<< 8) := by
        simp [St.record, St.setDetail, putField]
    _ = _ := by
        rw [hout]
        simp [BitVec.and_or_distrib_right, BitVec.and_assoc, hcode]

theorem St.record_setFbv_zero (o : SendOutcome) (st : Word) :
    St.record o 0x00#8 (St.setFbv st) = (st &&& 0xFFFF00FC#32) ||| 0x00000004#32 ||| o.code.setWidth 32 := by
  rw [St.record_setFbv]
  exact BitVec.or_zero

/-! ### SEND by the transport's answer -/

theorem send_fb (s : State) : (execState .send s).fb = s.fb.writeBytes 0 (frame s.vx s.vy s.wz) := by simp [execState]

/-- The state the output stage starts from. -/
theorem encodeSample_afterAnswer (s : State) :
    encodeSample s.afterAnswer = { s.afterAnswer with fb := s.fb.writeBytes 0 (frame s.vx s.vy s.wz)
                                                      crcAcc := cks s.vx s.vy s.wz
                                                      st := St.setFbv s.st } := by
  simp [encodeSample_eq]

/-- Settles O36: SEND is the output stage run on the encoded state, which each answer ends in one way. -/
theorem sendByOutcome : Obligations.SendByOutcome := by
  refine ⟨decodeOfEncode .send, fun s => ?_⟩
  have hbytes : (s.fb.writeBytes 0 (frame s.vx s.vy s.wz)).bytes = frame s.vx s.vy s.wz :=
    Memory.bytes_writeBytes _ _ (length_frame _ _ _)
  refine ⟨s.fb.writeBytes 0 (frame s.vx s.vy s.wz), hbytes, fun a ha => ?_, ?_⟩
  · rw [Memory.read_writeBytes, if_neg (by rw [length_frame]; omega)]
  · rw [exec_eq_next, execState, encodeSample_afterAnswer]
    obtain ⟨o, w, taken⟩ := s.nextAnswer
    rcases transmit_cases ⟨o, w, taken⟩ _ with ⟨ho, h⟩ | ⟨ho, hw, h⟩ | ⟨d, ho, hw, h⟩ <;> rw [h]
    · obtain rfl : o = false := ho
      simp [State.raise, State.setSt, Condition.mark, St.record_setFbv_zero, SendOutcome.code]
    · obtain rfl : o = true := ho
      obtain rfl : w = .ok := hw
      simp [hbytes, St.record_setFbv_zero, SendOutcome.code]
    · obtain rfl : o = true := ho
      obtain rfl : w = .ioError d := hw
      simp [hbytes, St.record_setFbv, SendOutcome.code]

/-! ### Outcome and detail -/

theorem detail_transmit (a : Answer) (s : State) :
    St.detail (transmit a s).st =
      if a.isOpen then (match a.wres with | .ok => 0x00#8 | .ioError d => d) else 0x00#8 := by
  rcases transmit_cases a s with ⟨ho, h⟩ | ⟨ho, hw, h⟩ | ⟨d, ho, hw, h⟩ <;> simp [*, Condition.mark]

theorem detail_send (s : State) :
    St.detail (execState .send s).st =
      if s.nextAnswer.isOpen then (match s.nextAnswer.wres with | .ok => 0x00#8 | .ioError d => d) else 0x00#8 :=
  detail_transmit _ _

/-- Settles O38: the open check and the write's result, case by case, against the fields they leave. -/
theorem sendOutcomeCode : Obligations.SendOutcomeCode := by
  intro s t h
  obtain rfl := eq_execState h
  rw [outcome_send, detail_send]
  obtain ⟨o, w, -⟩ := s.nextAnswer
  cases o with
  | false => simp
  | true => cases w with
    | ok => simp
    | ioError d => simp

/-- Settles O39: what SEND emits turns on the open check alone. -/
theorem sendNeverSuppressed : Obligations.SendNeverSuppressed := by
  refine fun s => ⟨execState .send s, exec_eq_next _ _, fun hopen => ?_, fun hclosed => ?_⟩
  · rw [send_trace, if_pos hopen]
  · simp [send_trace, hclosed]

/-- Settles O40: the first SEND leaves the sample registers alone, so the second encodes the same frame. -/
theorem twoSendsWriteTwice : Obligations.TwoSendsWriteTwice := by
  intro s t u hst htu hs ht
  obtain rfl := eq_execState hst
  obtain rfl := eq_execState htu
  obtain ⟨hvx, hvy, hwz⟩ := send_sample s
  rw [send_trace, send_trace s, if_pos hs, if_pos ht, hvx, hvy, hwz, List.append_assoc]
  rfl

/-- Settles O41: the write of all 41 bytes forgets the old buffer, and checksum, events and outcome are functions of the sample
and the answer. -/
theorem sendIndependentOfHistory : Obligations.SendIndependentOfHistory := by
  intro s s' t t' hwf hwf' hvx hvy hwz hanswer ht ht'
  obtain rfl := eq_execState ht
  obtain rfl := eq_execState ht'
  refine ⟨?_, ?_, ?_, ?_, _, send_trace s, ?_⟩
  · rw [send_fb, send_fb, hvx, hvy, hwz]
    exact Memory.writeBytes_eq_of_wf hwf hwf' (length_frame _ _ _)
  · rw [send_crcAcc, send_crcAcc, hvx, hvy, hwz]
  · rw [outcome_send, outcome_send, hanswer]
  · rw [detail_send, detail_send, hanswer]
  · rw [send_trace, hvx, hvy, hwz, hanswer]

/-! ### Who writes the trace -/

theorem trace_of_ne_send {i : Instr} (hi : i ≠ .send) (s : State) : (execState i s).trace = s.trace := by
  cases i with
  | send => exact absurd rfl hi
  | rdFb b => rcases readFb_cases b s with ⟨v, h⟩ | h <;> rw [execState, h] <;> rfl
  | crcInit | crcByte | crcRd | ldVx | ldVy | ldWz | enc | rdSt | clrSt => rfl

/-- Settles O42: SEND's write is of the buffer it leaves, whose 41 bytes are the frame. -/
theorem traceWriters : Obligations.TraceWriters := by
  refine ⟨rfl, fun i s t h => ?_, fun s t cw rest hs hl h => ?_⟩
  · obtain rfl := eq_execState h
    refine ⟨fun hi => trace_of_ne_send hi s, ?_⟩
    rintro rfl
    have hbytes : (List.range 41).map (execState .send s).fb.read = frame s.vx s.vy s.wz := send_bytes s
    obtain ⟨_, ht, hopen, hclosed⟩ := sendNeverSuppressed s
    obtain rfl := eq_execState ht
    rw [hbytes]
    cases ho : s.nextAnswer.isOpen with
    | false => exact .inl (hclosed ho)
    | true => exact .inr (hopen ho)
  · rw [step_illegal hs hl] at h
    cases h
    rfl

/-! ### The answers -/

/-- Settles O37: SEND drops the head of the listed answers, or counts one draw when none is listed, and its trace follows the
answer taken. -/
theorem sendTakesOneAnswer : Obligations.SendTakesOneAnswer := by
  intro s
  obtain ⟨-, hanswers, hdraws⟩ := send_environment s
  have htrace := send_trace s
  refine ⟨fun a l hl => ⟨_, exec_eq_next _ _, ?_, ?_, ?_⟩, fun hnil => ⟨_, exec_eq_next _ _, ?_, ?_, ?_⟩⟩
  · rw [hanswers, hl, List.tail_cons]
  · rw [hdraws, if_neg (by simp [hl])]
  · rw [htrace, s.nextAnswer_cons a l hl]
  · rw [hanswers, hnil, List.tail_nil]
  · rw [hdraws, if_pos hnil]
  · rw [htrace, s.nextAnswer_nil hnil]

end Sys2Proof.Machine
end

section
/-! PROOFS. The system commands (`44_system.md` R100, R101): the word RD.ST responds with, and what CLR.ST keeps of `ST`. -/

namespace Sys2Proof.Machine

/-- Putting zero in a field masks the field out. -/
theorem putField_zero (n lo : Nat) (st : Word) :
    putField lo 0#n st = st &&& ~~~((BitVec.allOnes n).setWidth 32 <<< lo) := by
  rw [putField, BitVec.setWidth_zero, BitVec.zero_shiftLeft, BitVec.or_zero]

/-- The four fields CLR.ST zeroes are masked out one after another: `OUTCOME`, `DETAIL`, `ILL`, `IDX`. -/
theorem St.clear_eq_and (st : Word) : St.clear st = st &&& 0xFFFF00E4#32 :=
  calc St.clear st = putField 4 0#1 (putField 3 0#1 (putField 8 0#8 (putField 0 0#2 st))) := rfl
    _ = st &&& 0xFFFFFFFC#32 &&& 0xFFFF00FF#32 &&& 0xFFFFFFF7#32 &&& 0xFFFFFFEF#32 := by
        simp only [putField_zero]
        rfl
    _ = st &&& 0xFFFF00E4#32 := by
        simp only [BitVec.and_assoc]
        rfl

/-- Settles O45: CLR.ST puts `St.clear` of the status into `ST`, which is the mask, and writes nothing else. -/
theorem clrStClearsAllButFbv : Obligations.ClrStClearsAllButFbv := by
  refine ⟨decodeOfEncode .clrSt, fun s => ?_⟩
  rw [← St.clear_eq_and]
  exact exec_eq_next .clrSt s

/-- Settles O44: RD.ST ends in `respond` of the status, and the invariant keeps the reserved bits 0. -/
theorem rdStRespondsStatus : Obligations.RdStRespondsStatus :=
  ⟨decodeOfEncode .rdSt, exec_eq_next .rdSt, fun _ hs => hs.reserved, exec_eq_next .rdSt State.reset⟩

end Sys2Proof.Machine
end

section
/-! PROOFS. The conditions (`60_exceptions.md` R106 to R117): a step always has a next state, what a step can do to `ST`, and
from that which flags stay, how many conditions a step records, and when a clean state stays clean. -/

namespace Sys2Proof.Machine

/-! ### Every step has a next state -/

/-- Settles O51: what is accepted is a command, and no command faults or is refused, or a state to go to. -/
theorem stepIsTotal : Obligations.StepIsTotal := by
  intro s
  unfold step
  cases accept s with
  | run i t => exact ⟨execState i t, exec_eq_next i t⟩
  | goto t => exact ⟨t, rfl⟩

/-- Settles O53: with no input the block accepts to stay where it is. -/
theorem idleBlockKeepsState : Obligations.IdleBlockKeepsState := by
  intro s hs
  have haccept : accept s = .goto s := by simp [accept, hs]
  rw [step, haccept]

/-- A step over a command word records an illegal word or carries out the command. -/
theorem step_command_cases {s t : State} {cw : CmdWord} {rest : List Input} (hs : s.inputs = .command cw :: rest)
    (h : step s = .next t) :
    (∃ e, decode cw = .error e ∧ t = takeIllegal (s.setInputs rest)) ∨
    (∃ i, decode cw = .ok i ∧ t = execState i (s.setInputs rest)) := by
  rcases hd : decode cw with e | i
  · rw [step_of_decode_error hs hd] at h
    cases h
    exact .inl ⟨e, rfl, rfl⟩
  · rw [step_command hs hd] at h
    exact .inr ⟨i, rfl, eq_execState h⟩

/-! ### What a step does to the status -/

/-- SEND sets `FBV` and records an outcome, whatever the transport answers. -/
theorem send_st (s : State) : ∃ o d, (execState .send s).st = St.record o d (St.setFbv s.st) := by
  rcases transmit_cases s.nextAnswer (encodeSample s.afterAnswer) with ⟨_, h⟩ | ⟨_, _, h⟩ | ⟨d, _, _, h⟩ <;>
    rw [execState, h]
  · exact ⟨.droppedClosed, 0x00#8, by simp [Condition.mark]⟩
  · exact ⟨.sent, 0x00#8, by simp⟩
  · exact ⟨.droppedWriteFailed, d, by simp⟩

/-- The four things a command can do to `ST`: clear it (CLR.ST), raise IndexRange (RD.FB above 40), record an outcome (SEND),
or write at most `FBV`. -/
theorem execState_st_cases (i : Instr) (s : State) :
    (i = .clrSt ∧ (execState i s).st = St.clear s.st) ∨
    (∃ b, i = .rdFb b ∧ 40 < b.toNat ∧ (execState i s).st = Condition.indexRange.mark s.st) ∨
    (i = .send ∧ ∃ o d, (execState i s).st = St.record o d (St.setFbv s.st)) ∨
    ((∀ b, i = .rdFb b → b.toNat ≤ 40) ∧ ((execState i s).st = s.st ∨ (execState i s).st = St.setFbv s.st)) := by
  cases i with
  | clrSt => exact .inl ⟨rfl, rfl⟩
  | send => exact .inr (.inr (.inl ⟨rfl, send_st s⟩))
  | rdFb b =>
    by_cases hb : b.toNat ≤ 40
    · refine .inr (.inr (.inr ⟨fun b' hb' => by cases hb'; exact hb, .inl ?_⟩))
      rw [execState, readFb_of_le hb, State.respond_st]
    · refine .inr (.inl ⟨b, rfl, Nat.lt_of_not_le hb, ?_⟩)
      rw [execState, readFb_of_gt (Nat.lt_of_not_le hb), State.raise_st]
  | enc => exact .inr (.inr (.inr ⟨nofun, .inr rfl⟩))
  | crcInit | crcByte | crcRd | ldVx | ldVy | ldWz | rdSt => exact .inr (.inr (.inr ⟨nofun, .inl rfl⟩))

@[simp] theorem St.ill_clear (st : Word) : St.ill (St.clear st) = false := by simp [St.clear]
@[simp] theorem St.idx_clear (st : Word) : St.idx (St.clear st) = false := by simp [St.clear]

/-! ### Sticky flags -/

/-- Settles O46: CLR.ST's only word is excluded, and every other write of `ST` sets a sticky flag or leaves it. -/
theorem stickyFlagsStay : Obligations.StickyFlagsStay := by
  intro s t cw rest hs hcw h
  rcases step_command_cases hs h with ⟨_, _, rfl⟩ | ⟨i, hd, rfl⟩
  · simp [Condition.mark]
  · rcases execState_st_cases i (s.setInputs rest) with
      ⟨rfl, _⟩ | ⟨_, _, _, hst⟩ | ⟨_, _, _, hst⟩ | ⟨_, hst | hst⟩
    · exact absurd (encodeOfDecode cw .clrSt hd).symm hcw
    · simp [hst, Condition.mark]
    · simp [hst]
    · simp [hst]
    · simp [hst]

/-! ### One condition per step -/

/-- At most one of `ILL`, `IDX` and an outcome is on record (`60_exceptions.md` R112). -/
def St.AtMostOne (st : Word) : Prop :=
  (St.ill st = true → St.idx st = false ∧ St.outcome st = 0#2) ∧
  (St.idx st = true → St.ill st = false ∧ St.outcome st = 0#2) ∧
  (St.outcome st ≠ 0#2 → St.ill st = false ∧ St.idx st = false)

/-- With both flags down, an outcome alone can be on record. -/
theorem St.atMostOne_of_no_flag {st : Word} (hill : St.ill st = false) (hidx : St.idx st = false) : St.AtMostOne st := by
  simp [St.AtMostOne, hill, hidx]

/-- The mask of R112's premise covers `OUTCOME`, `ILL` and `IDX`. -/
theorem St.fields_of_nothing_on_record {st : Word} (h : st &&& 0x0000FF1B#32 = 0#32) :
    St.ill st = false ∧ St.idx st = false ∧ St.outcome st = 0#2 := by
  refine ⟨?_, ?_, ?_⟩
  · simpa [St.ill] using congrArg (·.getLsbD 3) h
  · simpa [St.idx] using congrArg (·.getLsbD 4) h
  · have hmask : (0x0000FF1B#32).extractLsb' 0 2 = BitVec.allOnes 2 := by decide
    have hout := congrArg (·.extractLsb' 0 2) h
    rwa [BitVec.extractLsb'_and, hmask, BitVec.and_allOnes] at hout

/-- From nothing on record, a command puts at most one condition on record. -/
theorem execState_atMostOne {s : State} (hill : St.ill s.st = false) (hidx : St.idx s.st = false)
    (hout : St.outcome s.st = 0#2) (i : Instr) : St.AtMostOne (execState i s).st := by
  rcases execState_st_cases i s with ⟨_, hst⟩ | ⟨_, _, _, hst⟩ | ⟨_, _, _, hst⟩ | ⟨_, hst | hst⟩ <;> rw [hst]
  · exact St.atMostOne_of_no_flag (by simp) (by simp)
  · simp [St.AtMostOne, Condition.mark, hill, hout]
  · exact St.atMostOne_of_no_flag (by simpa) (by simpa)
  · exact St.atMostOne_of_no_flag hill hidx
  · exact St.atMostOne_of_no_flag (by simpa) (by simpa)

theorem applyReset_atMostOne (s : State) : St.AtMostOne (applyReset s).st :=
  St.atMostOne_of_no_flag (st := 0#32) (by decide) (by decide)

/-- Settles O47: a command word is illegal, and raises `ILL` alone, or is carried out; an idle step and a reset raise nothing. -/
theorem oneConditionPerCommand : Obligations.OneConditionPerCommand := by
  intro s t hs h
  obtain ⟨hill, hidx, hout⟩ := St.fields_of_nothing_on_record hs
  change St.AtMostOne t.st
  rcases step_cases s t h with
    ⟨_, rfl⟩ | ⟨_, rest, i, _, _, he⟩ | ⟨_, rest, _, _, _, rfl⟩ | ⟨rest, _, rfl⟩ | ⟨cw, rest, _, rfl⟩
  · exact St.atMostOne_of_no_flag hill hidx
  · exact eq_execState he ▸ execState_atMostOne (s := s.setInputs rest) hill hidx hout i
  · simp [St.AtMostOne, Condition.mark, hidx, hout]
  · exact applyReset_atMostOne _
  · obtain ⟨u, hu, -⟩ := resetDuring_eq cw (s.setInputs rest)
    exact hu ▸ applyReset_atMostOne u

/-! ### Clean steps -/

/-- An illegal word raises `ILL` (`60_exceptions.md` R107). -/
theorem not_clean_takeIllegal (s : State) : ¬ Clean (takeIllegal s) := by simp [Clean, Condition.mark]

/-- A command ends clean unless it is an RD.FB above 40. -/
theorem clean_execState_iff {s : State} (hs : Clean s) (i : Instr) :
    Clean (execState i s) ↔ ∀ b, i = .rdFb b → b.toNat ≤ 40 := by
  obtain ⟨hill, hidx⟩ := hs
  rcases execState_st_cases i s with ⟨rfl, hst⟩ | ⟨b, rfl, hb, hst⟩ | ⟨rfl, _, _, hst⟩ | ⟨hle, hst | hst⟩
  · exact iff_of_true (by simp [Clean, hst]) nofun
  · exact iff_of_false (by simp [Clean, hst, Condition.mark]) fun hle => absurd (hle b rfl) (Nat.not_le.mpr hb)
  · exact iff_of_true (by simp [Clean, hst, hill, hidx]) nofun
  · exact iff_of_true (by simp [Clean, hst, hill, hidx]) hle
  · exact iff_of_true (by simp [Clean, hst, hill, hidx]) hle

/-- Settles O59: an illegal word ends not clean, a command clean unless its index is out of range. -/
theorem cleanStepsAreLegal : Obligations.CleanStepsAreLegal := by
  intro s t cw rest hs hclean h
  rcases step_command_cases hs h with ⟨e, hd, rfl⟩ | ⟨i, hd, rfl⟩
  · refine iff_of_false (not_clean_takeIllegal _) ?_
    rintro ⟨i, hok, -⟩
    exact absurd (hd.symm.trans hok) nofun
  · rw [clean_execState_iff (s := s.setInputs rest) hclean]
    constructor
    · exact fun hle => ⟨i, hd, hle⟩
    · rintro ⟨i', hok, hle⟩
      obtain rfl : i = i' := Except.ok.inj (hd.symm.trans hok)
      exact hle

end Sys2Proof.Machine
end

section
/-! PROOFS. Reset (`70_reset_and_hazards.md` R120, R121): the reset input between commands and during one, and what the
transport keeps of an abandoned SEND (log entries 8 and 9). -/

namespace Sys2Proof.Machine

/-! ### The reset input -/

theorem step_reset {s : State} {rest : List Input} (hs : s.inputs = .reset :: rest) :
    step s = .next (applyReset (s.setInputs rest)) := by
  simp [step, accept, hs]

/-- Settles O55: `applyReset` is the reset state with the host's and the transport's records kept. -/
theorem resetInputRestoresResetState : Obligations.ResetInputRestoresResetState :=
  fun _ _ hs => step_reset hs

/-! ### A reset during a command -/

theorem step_resetDuring {s : State} {cw : CmdWord} {rest : List Input} (hs : s.inputs = .resetDuring cw :: rest) :
    step s = .next (resetDuring cw (s.setInputs rest)) := by
  simp [step, accept, hs]

/-- SEND has one command word (`30_encoding.md` R50). -/
theorem decode_eq_send_iff (cw : CmdWord) : decode cw = .ok .send ↔ cw = 0x2000000000#40 := by
  constructor
  · exact fun h => (encodeOfDecode cw .send h).symm
  · rintro rfl
    exact decodeOfEncode .send

/-- Abandoning any other word, legal or not, is the plain reset. -/
theorem resetDuring_of_ne_send {cw : CmdWord} (hcw : cw ≠ 0x2000000000#40) (s : State) :
    resetDuring cw s = applyReset s := by
  unfold resetDuring
  split
  · next hd => exact absurd ((decode_eq_send_iff cw).mp hd) hcw
  · rfl

/-- An abandoned SEND has used its answer, and on an open transport may have delivered the answer's free bytes. -/
theorem resetDuring_send (s : State) :
    resetDuring 0x2000000000#40 s =
      applyReset { s.afterAnswer with
        delivered := s.delivered ++ if s.nextAnswer.isOpen then [s.nextAnswer.delivered] else [] } := by
  rw [resetDuring, (decode_eq_send_iff _).mpr rfl]
  cases ho : s.nextAnswer.isOpen with
  | true => simp [applyReset]
  | false => simp [applyReset]

/-- Settles O56: every abandoned command ends in `applyReset`; the transport's records are the old ones unless the word is SEND,
which has used its answer. -/
theorem resetAbandonsCommand : Obligations.ResetAbandonsCommand := by
  intro s cw rest hs
  obtain ⟨u, hu, hinputs, hrsps⟩ := resetDuring_eq cw (s.setInputs rest)
  refine ⟨_, (step_resetDuring hs).trans (congrArg _ hu), hinputs, rfl, rfl, rfl, rfl, rfl, rfl, rfl, hrsps, ?_, ?_⟩
  · intro hcw
    rw [← hu, resetDuring_of_ne_send hcw]
    exact ⟨rfl, rfl, rfl⟩
  · rintro rfl
    rw [← hu, resetDuring_send, State.afterAnswer_setInputs]
    exact ⟨rfl, rfl, rfl⟩

end Sys2Proof.Machine
end
